-- ==== Sys2Proof/Word.lean ====
section
/-! DEFINITION. The word types of the decoder: sample indices, bytes and the bus level. -/

namespace Sys2Proof

/-- A byte of a packed record (20_memory.md R53). -/
abbrev Byte := BitVec 8

/-- A sample index or a pulse width, `u64` (20_memory.md R40, 40_timing_model.md R85(b)). -/
abbrev Index := BitVec 64

/-- The level of the bus, "levels are binary" (20_memory.md R40, 30_encoding.md R61). -/
inductive Level where
  | low
  | high
deriving DecidableEq, Repr

/-- The opposite level: what the bus has on the other side of an edge (20_memory.md R41). -/
def Level.flip : Level → Level
  | .low => .high
  | .high => .low

end Sys2Proof
end

