-- ==== Sys2Proof/Syntax.lean ====
section
/-! DEFINITION. The operations of the decoder, one constructor per row of spec/opcode_table.json, and the value sets
their operands and the controller's registers range over. -/

namespace Sys2Proof

/-- The four kinds of a Frame record (20_memory.md R49, 30_encoding.md R62). -/
inductive FrameKind where
  | restart
  | data
  | command
  | crc
deriving DecidableEq, Repr, Inhabited

/-- The five kinds of a Marker record (20_memory.md R51, 30_encoding.md R63). -/
inductive MarkerKind where
  | invalid
  | start
  | downArrow
  | zero
  | one
deriving DecidableEq, Repr

/-- The sixteen values of the phase register `ph` (45_decode_loop.md R130). -/
inductive Phase where
  | idle
  | start
  | measure
  | glitch
  | gapchk
  | gapflush
  | rstchk
  | rstacc
  | rstre
  | chkpt
  | spoint
  | asm
  | emit
  | progress
  | cancelchk
  | halt
deriving DecidableEq, Repr

/-- Which of the three operations of phase GLITCH a visit executes (41_acquire_glitch.md R91). -/
inductive GlitchSel where
  | high
  | low
  | pass
deriving DecidableEq, Repr

/-- The current FrameLayer (10_state.md R15). -/
inductive FrameLayer where
  | unknown
  | data
  | command
  | crc
deriving DecidableEq, Repr

/-- The state of the DecodeLoop (10_state.md R24). -/
inductive LoopState where
  | unknown
  | newTransactionGap
  | resetObserved
  | decoding
deriving DecidableEq, Repr

/-- Why a run ended (10_state.md R25). -/
inductive HaltReason where
  | none
  | cancelled
  | streamExhausted
  | configurationError
deriving DecidableEq, Repr

/-- The events of 60_exceptions.md R150. -/
inductive Event where
  | glitch
  | invalidBitSlot
  | outOfSpecReset
  | configurationError
  | streamExhausted
  | cancelled
deriving DecidableEq, Repr

/-- The operations: eighteen of the controller (45_decode_loop.md R130), four cursor commands (20_memory.md R43 to R46)
and four sink records (20_memory.md R49 to R52). -/
inductive Instr where
  | idle
  | start
  | measure
  | gfHigh
  | gfLow
  | gfPass
  | gapchk
  | gapflush
  | rstchk
  | rstacc
  | rstre
  | chkpt
  | spoint
  | asm
  | emit
  | progress
  | cancelchk
  | halt
  | query
  | advEdge
  | peekEdge
  | advBy (n : BitVec 32)
  | frame (startSample endSample : Index) (kind : FrameKind) (value : BitVec 48) (warning : Bool)
  | commit
  | marker (sample : Index) (kind : MarkerKind)
  | progressRec (sample : Index)
deriving DecidableEq, Repr

end Sys2Proof
end

