-- ==== Sys2Proof/Config.lean ====
section
/-! DEFINITION. What an implementation fixes: the parameter record `P` of 00_scope.md R5, the reference set `REF` of R7,
and the values the spec leaves free. -/

namespace Sys2Proof

/-- `OVERDRIVE_INIT` (00_scope.md R5, 10_state.md R20): a copy of `force_overdrive`, or a constant. -/
inductive OverdriveInit where
  | followForce
  | constant (b : Bool)
deriving DecidableEq, Repr

/-- `STREAM` (00_scope.md R5): whether the edge source can end or waits for more samples. -/
inductive StreamKind where
  | finite
  | live
deriving DecidableEq, Repr

/-- The parameter record `P` (00_scope.md R5). It is an argument of the model: State carries one and no step changes it
(log 3). Fields in microseconds unless their name says otherwise. -/
structure Params where
  resetPulseUs : Nat
  resetMarginInUs : Nat
  overdriveResetPulseUs : Nat
  overdriveMarginInUs : Nat
  overdriveMaxResetUs : Nat
  overdriveMarginOutUs : Nat
  sampleCheckpointUs : Nat
  samplePointUs : Nat
  minPulseUs : Nat
  longGapUs : Nat
  minSampleRateHz : Nat
  overdriveInit : OverdriveInit
  stream : StreamKind
deriving DecidableEq, Repr

/-- The reference parameter set `REF` (00_scope.md R5, R7): for the spec's own vectors; "No claim about the real bus may
rest on `REF`". -/
def Params.ref : Params where
  resetPulseUs := 480
  resetMarginInUs := 100
  overdriveResetPulseUs := 48
  overdriveMarginInUs := 8
  overdriveMaxResetUs := 80
  overdriveMarginOutUs := 8
  sampleCheckpointUs := 15
  samplePointUs := 30
  minPulseUs := 10
  longGapUs := 1000
  minSampleRateHz := 2000000
  overdriveInit := .followForce
  stream := .finite

/-- Free value: what `cfg_chan` holds after a hardware reset, "unspecified" (70_reset_and_hazards.md R170, R171), one for
each value of the counter it is applied to. DESIGN CHOICE: it has no body, so nothing can be proved of it; safe (log 7). -/
opaque Config.unspecifiedChannel : Nat → Nat

/-- Free value: `kind(Unknown)`, which 44_frame_assembler.md R121 does not define because EMIT never runs with layer
Unknown. DESIGN CHOICE: it has no body; safe (log 9). -/
opaque Config.kindOfUnknown : FrameKind

end Sys2Proof
end

