-- ==== Sys2Proof/Decode.lean ====
section
/-! DEFINITION. The encodings of 30_encoding.md and the phase codes of 45_decode_loop.md R130: codes, the decoder (total,
refusing by name), and the encoder after it. -/

namespace Sys2Proof

/-- Why a word is no operation (30_encoding.md R71). -/
inductive DecodeError where
  /-- a CUR_CMD word with `n` not 0 and a command other than ADV_BY (R71(b)) -/
  | operandOnOtherCommand
  /-- a MARKER record with kind code 5, 6 or 7 (R71(a)) -/
  | reservedMarkerKind
  /-- an SNK word with a bit set that its type does not list (R71(c)) -/
  | unlistedSinkBits
  /-- a byte string that is not as long as its format (R60: each of one fixed length) -/
  | wrongLength
  /-- a bit set in the last byte above the record's top bit (log 18) -/
  | paddingBits
deriving DecidableEq, Repr

/-- The bus level's code (30_encoding.md R61). -/
def Level.code : Level → BitVec 1
  | .low => 0
  | .high => 1

/-- The frame kind's code (30_encoding.md R62). -/
def FrameKind.code : FrameKind → BitVec 2
  | .restart => 0
  | .data => 1
  | .command => 2
  | .crc => 3

/-- All four frame kind codes are used (30_encoding.md R62). -/
def FrameKind.ofCode (c : BitVec 2) : FrameKind :=
  match c.toNat with
  | 0 => .restart
  | 1 => .data
  | 2 => .command
  | _ => .crc

/-- The marker kind's code (30_encoding.md R63). -/
def MarkerKind.code : MarkerKind → BitVec 3
  | .invalid => 0
  | .start => 1
  | .downArrow => 2
  | .zero => 3
  | .one => 4

/-- Marker kind codes 5, 6, 7 are reserved (30_encoding.md R63). -/
def MarkerKind.ofCode? (c : BitVec 3) : Option MarkerKind :=
  match c.toNat with
  | 0 => some .invalid
  | 1 => some .start
  | 2 => some .downArrow
  | 3 => some .zero
  | 4 => some .one
  | _ => none

/-- The phase's code (45_decode_loop.md R130). -/
def Phase.code : Phase → BitVec 4
  | .idle => 0
  | .start => 1
  | .measure => 2
  | .glitch => 3
  | .gapchk => 4
  | .gapflush => 5
  | .rstchk => 6
  | .rstacc => 7
  | .rstre => 8
  | .chkpt => 9
  | .spoint => 10
  | .asm => 11
  | .emit => 12
  | .progress => 13
  | .cancelchk => 14
  | .halt => 15

/-- All sixteen phase codes are used (30_encoding.md R71(f)). -/
def Phase.ofCode (c : BitVec 4) : Phase :=
  match c.toNat with
  | 0 => .idle
  | 1 => .start
  | 2 => .measure
  | 3 => .glitch
  | 4 => .gapchk
  | 5 => .gapflush
  | 6 => .rstchk
  | 7 => .rstacc
  | 8 => .rstre
  | 9 => .chkpt
  | 10 => .spoint
  | 11 => .asm
  | 12 => .emit
  | 13 => .progress
  | 14 => .cancelchk
  | _ => .halt

/-- The layer's code (10_state.md R15). -/
def FrameLayer.code : FrameLayer → BitVec 2
  | .unknown => 0
  | .data => 1
  | .command => 2
  | .crc => 3

/-- The loop state's code (10_state.md R24). -/
def LoopState.code : LoopState → BitVec 2
  | .unknown => 0
  | .newTransactionGap => 1
  | .resetObserved => 2
  | .decoding => 3

/-- The halt reason's code (10_state.md R25). -/
def HaltReason.code : HaltReason → BitVec 2
  | .none => 0
  | .cancelled => 1
  | .streamExhausted => 2
  | .configurationError => 3

/-- A word as a port or the phase register presents it (30_encoding.md R60). -/
inductive FetchWord where
  | phase (code : BitVec 4)
  | curCmd (word : BitVec 34)
  | snk (word : BitVec 181)
deriving DecidableEq, Repr

/-- The operation a phase selects (45_decode_loop.md R130); phase GLITCH selects by `sel` (41_acquire_glitch.md R91). -/
def Phase.instr (sel : GlitchSel) : Phase → Instr
  | .idle => .idle
  | .start => .start
  | .measure => .measure
  | .glitch =>
    match sel with
    | .high => .gfHigh
    | .low => .gfLow
    | .pass => .gfPass
  | .gapchk => .gapchk
  | .gapflush => .gapflush
  | .rstchk => .rstchk
  | .rstacc => .rstacc
  | .rstre => .rstre
  | .chkpt => .chkpt
  | .spoint => .spoint
  | .asm => .asm
  | .emit => .emit
  | .progress => .progress
  | .cancelchk => .cancelchk
  | .halt => .halt

/-- A cursor command word: `cmd` in bits 1:0, `n` in bits 33:2, 0 unless the command is ADV_BY (30_encoding.md R65, R66,
R71(b)). -/
def decodeCurCmd (w : BitVec 34) : Except DecodeError Instr :=
  let n := w.extractLsb' 2 32
  match (w.extractLsb' 0 2).toNat with
  | 3 => .ok (.advBy n)
  | cmd =>
    if n ≠ 0 then .error .operandOnOtherCommand
    else
      match cmd with
      | 0 => .ok .query
      | 1 => .ok .advEdge
      | _ => .ok .peekEdge

/-- A sink record word: `type` in bits 1:0, the fields where 30_encoding.md R68 lists them, every unlisted bit 0
(R71(c)), no reserved marker kind (R71(a)). -/
def decodeSnk (w : BitVec 181) : Except DecodeError Instr :=
  match (w.extractLsb' 0 2).toNat with
  | 0 =>
    .ok (.frame (w.extractLsb' 2 64) (w.extractLsb' 66 64) (FrameKind.ofCode (w.extractLsb' 130 2))
      (w.extractLsb' 132 48) (w.getLsbD 180))
  | 1 => if w.extractLsb' 2 179 ≠ 0 then .error .unlistedSinkBits else .ok .commit
  | 2 =>
    if w.extractLsb' 69 112 ≠ 0 then .error .unlistedSinkBits
    else
      match MarkerKind.ofCode? (w.extractLsb' 66 3) with
      | some kind => .ok (.marker (w.extractLsb' 2 64) kind)
      | none => .error .reservedMarkerKind
  | _ => if w.extractLsb' 66 115 ≠ 0 then .error .unlistedSinkBits else .ok (.progressRec (w.extractLsb' 2 64))

/-- The decoder: total on every word of every format. `sel` is the selection the core makes in phase GLITCH. -/
def decode (sel : GlitchSel) : FetchWord → Except DecodeError Instr
  | .phase code => .ok (Phase.instr sel (Phase.ofCode code))
  | .curCmd word => decodeCurCmd word
  | .snk word => decodeSnk word

/-- The formats that select an operation (30_encoding.md R60). -/
inductive Format where
  | phase
  | curCmd
  | snk
deriving DecidableEq, Repr

/-- A format's length in bits (30_encoding.md R60). -/
def Format.bits : Format → Nat
  | .phase => 4
  | .curCmd => 34
  | .snk => 181

/-- A format's length in whole bytes (20_memory.md R53). -/
def Format.bytes (f : Format) : Nat := (f.bits + 7) / 8

/-- The word of a format with the bits of `w`. -/
def Format.word (f : Format) (w : Nat) : FetchWord :=
  match f with
  | .phase => .phase (BitVec.ofNat 4 w)
  | .curCmd => .curCmd (BitVec.ofNat 34 w)
  | .snk => .snk (BitVec.ofNat 181 w)

/-- Bytes to the number they pack: byte `k` holds bits `8k+7` down to `8k` (20_memory.md R53). -/
def bytesToNat : List Byte → Nat
  | [] => 0
  | b :: bs => b.toNat + 256 * bytesToNat bs

/-- The first `k` bytes of a number, least significant first (20_memory.md R53). -/
def natToBytes : Nat → Nat → List Byte
  | 0, _ => []
  | k + 1, w => BitVec.ofNat 8 w :: natToBytes k (w / 256)

/-- The decoder on bytes as they are stored: a byte string of exactly the format's length, with no bit set above the
record's top bit (30_encoding.md R60, 20_memory.md R53; log 18). -/
def decodeBytes (f : Format) (sel : GlitchSel) (bs : List Byte) : Except DecodeError Instr :=
  if bs.length ≠ f.bytes then .error .wrongLength
  else if 2 ^ f.bits ≤ bytesToNat bs then .error .paddingBits
  else decode sel (f.word (bytesToNat bs))

/-- The format of a table row that is `nbits` bits long: the row lengths of spec/opcode_table.json are 4, 34 and 181. -/
def formatOf (nbits : Nat) : Format :=
  if nbits ≤ 8 then .phase else if nbits ≤ 64 then .curCmd else .snk

/-- The instruction the decoder reads from a table word. Phase code 3 stands for three rows that only the core's
registers tell apart; this word-only reading takes GF_PASS, the one the state after reset selects (log 2). -/
def decodeTableWord (nbits w : Nat) : Option Instr :=
  let f := formatOf nbits
  match decodeBytes f .pass (natToBytes f.bytes w) with
  | .ok i => some i
  | .error _ => none

/-- The controller phase an operation is the operation of, if it is one of the controller's (45_decode_loop.md R130). -/
def Instr.phase? : Instr → Option Phase
  | .idle => some .idle
  | .start => some .start
  | .measure => some .measure
  | .gfHigh => some .glitch
  | .gfLow => some .glitch
  | .gfPass => some .glitch
  | .gapchk => some .gapchk
  | .gapflush => some .gapflush
  | .rstchk => some .rstchk
  | .rstacc => some .rstacc
  | .rstre => some .rstre
  | .chkpt => some .chkpt
  | .spoint => some .spoint
  | .asm => some .asm
  | .emit => some .emit
  | .progress => some .progress
  | .cancelchk => some .cancelchk
  | .halt => some .halt
  | .query => none
  | .advEdge => none
  | .peekEdge => none
  | .advBy _ => none
  | .frame _ _ _ _ _ => none
  | .commit => none
  | .marker _ _ => none
  | .progressRec _ => none

/-- The GLITCH selection under which an operation is the one its phase executes; for the other operations the selection
does not matter (41_acquire_glitch.md R91). -/
def Instr.glitchSel : Instr → GlitchSel
  | .idle => .pass
  | .start => .pass
  | .measure => .pass
  | .gfHigh => .high
  | .gfLow => .low
  | .gfPass => .pass
  | .gapchk => .pass
  | .gapflush => .pass
  | .rstchk => .pass
  | .rstacc => .pass
  | .rstre => .pass
  | .chkpt => .pass
  | .spoint => .pass
  | .asm => .pass
  | .emit => .pass
  | .progress => .pass
  | .cancelchk => .pass
  | .halt => .pass
  | .query => .pass
  | .advEdge => .pass
  | .peekEdge => .pass
  | .advBy _ => .pass
  | .frame _ _ _ _ _ => .pass
  | .commit => .pass
  | .marker _ _ => .pass
  | .progressRec _ => .pass

/-- A cursor command's word (30_encoding.md R65, R66). -/
def encodeCurCmd (n : BitVec 32) (cmd : BitVec 2) : BitVec 34 := n ++ cmd

/-- A FRAME record's word (30_encoding.md R68). -/
def encodeFrame (startSample endSample : Index) (kind : FrameKind) (value : BitVec 48) (warning : Bool) : BitVec 181 :=
  BitVec.ofBool warning ++ value ++ kind.code ++ endSample ++ startSample ++ (0 : BitVec 2)

/-- A MARKER record's word (30_encoding.md R68). -/
def encodeMarker (sample : Index) (kind : MarkerKind) : BitVec 181 :=
  (0 : BitVec 112) ++ kind.code ++ sample ++ (2 : BitVec 2)

/-- A PROGRESS record's word (30_encoding.md R68). -/
def encodeProgress (sample : Index) : BitVec 181 :=
  (0 : BitVec 115) ++ sample ++ (3 : BitVec 2)

/-- The encoder: the word of an operation in its format. -/
def encode : Instr → FetchWord
  | .idle => .phase Phase.idle.code
  | .start => .phase Phase.start.code
  | .measure => .phase Phase.measure.code
  | .gfHigh => .phase Phase.glitch.code
  | .gfLow => .phase Phase.glitch.code
  | .gfPass => .phase Phase.glitch.code
  | .gapchk => .phase Phase.gapchk.code
  | .gapflush => .phase Phase.gapflush.code
  | .rstchk => .phase Phase.rstchk.code
  | .rstacc => .phase Phase.rstacc.code
  | .rstre => .phase Phase.rstre.code
  | .chkpt => .phase Phase.chkpt.code
  | .spoint => .phase Phase.spoint.code
  | .asm => .phase Phase.asm.code
  | .emit => .phase Phase.emit.code
  | .progress => .phase Phase.progress.code
  | .cancelchk => .phase Phase.cancelchk.code
  | .halt => .phase Phase.halt.code
  | .query => .curCmd (encodeCurCmd 0 0)
  | .advEdge => .curCmd (encodeCurCmd 0 1)
  | .peekEdge => .curCmd (encodeCurCmd 0 2)
  | .advBy n => .curCmd (encodeCurCmd n 3)
  | .frame startSample endSample kind value warning => .snk (encodeFrame startSample endSample kind value warning)
  | .commit => .snk ((0 : BitVec 179) ++ (1 : BitVec 2))
  | .marker sample kind => .snk (encodeMarker sample kind)
  | .progressRec sample => .snk (encodeProgress sample)

end Sys2Proof
end

