-- ==== Sys2Proof/Machine/State.lean ====
section
/-! DEFINITION. The machine's state as plain data: the registers of 10_state.md R10, the cursor and the sink stream the
core reads and feeds, the two ports, the host's pins, and the parameters of a run. -/

namespace Sys2Proof.Machine

/-- A record of the sink stream (20_memory.md R48 to R52). -/
inductive Record where
  | frame (startSample endSample : Index) (kind : FrameKind) (value : BitVec 48) (warning : Bool)
  | commit
  | marker (sample : Index) (kind : MarkerKind)
  | progress (sample : Index)
deriving DecidableEq, Repr

/-- The sample-index space (20_memory.md R40, R41): one level per index `base ≤ s < stop`. `edges` lists the indices whose
level differs from that of the index before, strictly rising; every other index has the level of the index before it, and
index `base` has the level `first`. `stop` is `s_end` of a finite stream, and the end of the samples delivered so far on a
live one, which is its `s_end` once it has been ended. -/
structure Memory where
  base : Nat
  stop : Nat
  first : Level
  edges : List Nat
deriving DecidableEq, Repr

/-- The answer to a cursor command (30_encoding.md R67). -/
structure CurRsp where
  sample : Index
  level : Level
  eos : Bool
deriving DecidableEq, Repr

/-- Where an operation of the core can stand while its cursor command waits for samples of a live stream (20_memory.md R47,
60_exceptions.md R167(b)): the command that waits, and with it what is left of the operation (log 10). -/
inductive WaitPoint where
  /-- AdvEdge to the rising edge that ends a low pulse: MEASURE from a Low cursor, GF_HIGH -/
  | risingEdge
  /-- AdvEdge to the falling edge that ends the high pulse from `rise`: MEASURE, GF_HIGH -/
  | fallingEdge
  /-- PeekEdge at the end of the low pulse from `fall`: MEASURE, GF_HIGH, GF_LOW -/
  | lowPulseEnd
  /-- AdvEdge to the end of the short low pulse: GF_LOW -/
  | spikeEnd
  /-- AdvEdge to the end of the merged high pulse: GF_LOW -/
  | mergedPulseEnd
  /-- AdvBy to the checkpoint: CHKPT -/
  | checkpoint
  /-- AdvBy to the sample point: SPOINT -/
  | samplePoint
  /-- AdvEdge to the end of the reset pulse: RSTACC -/
  | resetEnd
deriving DecidableEq, Repr

/-- The nine threshold registers (10_state.md R28, 40_timing_model.md R84). -/
structure Thresholds where
  tFloor : Index
  tChk : Index
  tSp : Index
  tStdMin : Index
  tStdNom : Index
  tOvdMin : Index
  tOvdNom : Index
  tOvdMax : Index
  tGap : Index
deriving DecidableEq, Repr

/-- The host's input pins (10_state.md R26): the levels they are driven to now. -/
structure Pins where
  rst : Bool
  start : Bool
  cancel : Bool
  sampleRateHz : BitVec 32
  forceOverdrive : Bool
  channel : Nat
  channelValid : Bool
deriving DecidableEq, Repr

/-- What the outside does between two operations (log 4): the host drives its pins (10_state.md R26), binds a capture and
places its cursor (70_reset_and_hazards.md R173), a live source delivers samples (20_memory.md R47), further edges and
the new end of the delivered samples, or the host ends the live stream (70_reset_and_hazards.md R178). -/
structure HostTurn where
  pins : Option Pins
  capture : Option (Memory × Index)
  deliver : Option (List Nat × Nat)
  ends : Bool
deriving DecidableEq, Repr

/-- Why the machine stops with a fault. -/
inductive Fault where
  /-- A cursor command ran while the cursor stood on an index that has no sample (outside `base ≤ pos < stop`,
  20_memory.md R41, R42). Raised by every cursor command and every operation that issues one. Safe: the index does not
  exist, and no run with `s0 ≤ pos < s_end` reaches it (log 11). -/
  | sampleOutsideData
deriving DecidableEq, Repr

/-- Why the machine refuses to go on. -/
inductive Refusal where
  /-- Raised only by an arm of `exec` whose operation has no meaning yet. Safe. -/
  | notModelled (mnemonic : String)
  /-- Raised by a step whose fetched word is reserved (30_encoding.md R71, 93_implementation_defined.md U12). Safe
  (log 18). -/
  | reservedEncoding (reason : DecodeError)
  /-- Raised by START with a parameter record that 00_scope.md R6 does not admit (93_implementation_defined.md U10).
  Safe (log 14). -/
  | inadmissibleParameters
  /-- Raised by ADV_BY, CHKPT and SPOINT on a live stream when the new position would be at or beyond 2^64
  (93_implementation_defined.md U9). Safe (log 12). -/
  | indexBeyond64
  /-- Raised between operations when the outside moves the cursor or changes the waveform during a run, or binds or
  delivers a waveform that is none (20_memory.md R41, R42; 93_implementation_defined.md U13). Safe (log 13). -/
  | edgeSourceContract
deriving DecidableEq, Repr

/-- The state of the machine. -/
structure State where
  /-- 10_state.md R23 -/
  ph : Phase
  /-- 10_state.md R24 -/
  st : LoopState
  /-- 10_state.md R25 -/
  haltReason : HaltReason
  /-- 10_state.md R11 -/
  rise : Index
  /-- 10_state.md R12 -/
  fall : Index
  /-- 10_state.md R13 -/
  highW : Index
  /-- 10_state.md R13 -/
  lowW : Index
  /-- 10_state.md R15 -/
  layer : FrameLayer
  /-- 10_state.md R16 -/
  bits : BitVec 6
  /-- 10_state.md R17 -/
  acc : BitVec 48
  /-- 10_state.md R18 -/
  fieldStart : Index
  /-- 10_state.md R19 -/
  bit : Bool
  /-- 10_state.md R20 -/
  overdrive : Bool
  /-- 10_state.md R21 -/
  defer : Bool
  /-- 10_state.md R22 -/
  rstWarn : Bool
  /-- 10_state.md R27 -/
  cfgRate : BitVec 32
  /-- 10_state.md R27 -/
  cfgForce : Bool
  /-- 10_state.md R27; opaque (log 19) -/
  cfgChan : Nat
  /-- 10_state.md R28 -/
  thr : Thresholds
  /-- the cursor position, owned by the edge source (20_memory.md R42) -/
  pos : Index
  /-- the sample-index space behind the cursor (20_memory.md R41) -/
  mem : Memory
  /-- the host has ended the live stream: no sample beyond `mem.stop` will come (70_reset_and_hazards.md R178; log 28) -/
  ended : Bool
  /-- the sink stream, oldest record first (20_memory.md R48) -/
  sink : List Record
  /-- the last answer on the cursor port (30_encoding.md R67; log 16) -/
  curRsp : CurRsp
  /-- where an operation of the core stands that is in progress, its cursor command waiting for samples of a live stream
  (60_exceptions.md R167(b); log 10) -/
  waiting : Option WaitPoint
  /-- a command word waiting at the cursor port (30_encoding.md R66; log 1) -/
  curCmd : Option (BitVec 34)
  /-- a record word waiting at the sink port (30_encoding.md R68; log 1) -/
  snkWord : Option (BitVec 181)
  /-- 10_state.md R26 -/
  pins : Pins
  /-- what the outside will do between the next operations (log 4) -/
  script : List HostTurn
  /-- the parameter record of the run (00_scope.md R5; log 3) -/
  params : Params
  /-- the model's own: numbers the free values (log 7) -/
  freeSeq : Nat
deriving DecidableEq, Repr

/-- The thresholds after reset (70_reset_and_hazards.md R170). -/
def Thresholds.zero : Thresholds where
  tFloor := 0
  tChk := 0
  tSp := 0
  tStdMin := 0
  tStdNom := 0
  tOvdMin := 0
  tOvdNom := 0
  tOvdMax := 0
  tGap := 0

/-- Every pin low: a DESIGN CHOICE, the pins are inputs (log 4). -/
def Pins.low : Pins where
  rst := false
  start := false
  cancel := false
  sampleRateHz := 0
  forceOverdrive := false
  channel := 0
  channelValid := false

/-- The smallest waveform there is, one High sample at index 0: a DESIGN CHOICE, the spec gives no capture (log 5). -/
def Memory.single : Memory where
  base := 0
  stop := 1
  first := .high
  edges := []

/-- The machine right after reset (70_reset_and_hazards.md R170, R171). The core's registers have the values the spec
gives, `cfgChan` (unspecified), what the core does not own, and the parameters of a run those of log 3, 4, 5, 7, 16, 28; no operation is in progress. -/
def State.reset : State where
  ph := .idle
  st := .unknown
  haltReason := .none
  rise := 0
  fall := 0
  highW := 0
  lowW := 0
  layer := .unknown
  bits := 0
  acc := 0
  fieldStart := 0
  bit := false
  overdrive := false
  defer := false
  rstWarn := false
  cfgRate := 0
  cfgForce := false
  cfgChan := 0
  thr := Thresholds.zero
  pos := 0
  mem := Memory.single
  ended := false
  sink := []
  curRsp := { sample := 0, level := .low, eos := false }
  waiting := none
  curCmd := none
  snkWord := none
  pins := Pins.low
  script := []
  params := Params.ref
  freeSeq := 0

/-- The result of a meaning. -/
abbrev Out := Host.Outcome State Fault Refusal

end Sys2Proof.Machine
end

