-- ==== Sys2Proof/Machine/Operands.lean ====
section
/-! DEFINITION. What the operations compute from the parameter record and the registers: the TimingModel conversions and
thresholds (40_timing_model.md), the layer widths and kinds, the GLITCH selection, the effective overdrive bit, the derived
widths and the status outputs. -/

namespace Sys2Proof.Machine

/-- 40_timing_model.md R81: the product before the quotient, over naturals, truncating. -/
def usToSamples (rate us : Nat) : Nat := rate * us / 1000000

/-- 40_timing_model.md R83: exact, truncating; the domain is `rate > 0` (R80). -/
def samplesToUs (rate samples : Nat) : Nat := samples * 1000000 / rate

/-- `usToSamples` as a threshold register holds it (10_state.md R28). -/
def usToIndex (rate : BitVec 32) (us : Nat) : Index := BitVec.ofNat 64 (usToSamples rate.toNat us)

/-- The threshold derivation of START (40_timing_model.md R84). -/
def thresholds (p : Params) (rate : BitVec 32) : Thresholds where
  tFloor := usToIndex rate p.minPulseUs
  tChk := usToIndex rate p.sampleCheckpointUs
  tSp := usToIndex rate p.samplePointUs
  tStdMin := usToIndex rate (p.resetPulseUs - p.resetMarginInUs)
  tStdNom := usToIndex rate p.resetPulseUs
  tOvdMin := usToIndex rate (p.overdriveResetPulseUs - p.overdriveMarginInUs)
  tOvdNom := usToIndex rate p.overdriveResetPulseUs
  tOvdMax := usToIndex rate (p.overdriveMaxResetUs + p.overdriveMarginOutUs)
  tGap := usToIndex rate p.longGapUs

/-- 00_scope.md R6(d): every microsecond parameter, and the one sum of two, is below 2^32. -/
def microsecondsFit (p : Params) : Bool :=
  [p.resetPulseUs, p.resetMarginInUs, p.overdriveResetPulseUs, p.overdriveMarginInUs, p.overdriveMaxResetUs,
    p.overdriveMarginOutUs, p.overdriveMaxResetUs + p.overdriveMarginOutUs, p.sampleCheckpointUs, p.samplePointUs,
    p.minPulseUs, p.longGapUs].all (fun us => decide (us < 2 ^ 32))

/-- An admissible parameter record, 00_scope.md R6 (a) to (d); (e) binds only the source's own scenario. -/
def admissible (p : Params) : Bool :=
  decide (p.resetMarginInUs ≤ p.resetPulseUs) && decide (p.overdriveMarginInUs ≤ p.overdriveResetPulseUs) &&
  decide (p.sampleCheckpointUs ≤ p.samplePointUs) && decide (p.samplePointUs ≤ 1000000) &&
  decide (1 ≤ p.minSampleRateHz) && microsecondsFit p

/-- The value START gives the `overdrive` flag (10_state.md R20, 45_decode_loop.md R131). -/
def initialOverdrive (i : OverdriveInit) (force : Bool) : Bool :=
  match i with
  | .followForce => force
  | .constant b => b

/-- `width(layer)`; none for Unknown, which has no width (10_state.md R15). -/
def layerWidth? : FrameLayer → Option (BitVec 6)
  | .unknown => none
  | .data => some 16
  | .command => some 48
  | .crc => some 8

/-- `kind(layer)` (44_frame_assembler.md R121); for Unknown, which EMIT never sees, a free value (log 9). -/
def layerKind : FrameLayer → FrameKind
  | .unknown => Config.kindOfUnknown
  | .data => .data
  | .command => .command
  | .crc => .crc

/-- The layer after EMIT: Data to Command, else CRC (44_frame_assembler.md R121). -/
def layerNext : FrameLayer → FrameLayer
  | .data => .command
  | .command => .crc
  | .unknown => .crc
  | .crc => .crc

/-- Which operation a visit of phase GLITCH executes: the high pulse is tested before the low pulse, both strictly, and
neither while `defer` is set (41_acquire_glitch.md R91). -/
def glitchSelect (s : State) : GlitchSel :=
  if !s.defer && decide (s.highW < s.thr.tFloor) then .high
  else if !s.defer && decide (s.lowW < s.thr.tFloor) then .low
  else .pass

/-- The effective overdrive bit (42_reset_detector.md R100). -/
def State.odEff (s : State) : Bool := s.cfgForce || s.overdrive

/-- `bit` as a 48-bit number (44_frame_assembler.md R120). -/
def bitValue (b : Bool) : BitVec 48 := if b then 1 else 0

/-- The sample count CHKPT advances by, `T_CHK` (30_encoding.md R70); its low 32 bits are all of it (R6(c); log 15). -/
def checkpointAdvance (s : State) : BitVec 32 := s.thr.tChk.setWidth 32

/-- The sample count SPOINT advances by, `T_SP - T_CHK` (30_encoding.md R70; log 15). -/
def samplePointAdvance (s : State) : BitVec 32 := (s.thr.tSp - s.thr.tChk).setWidth 32

/-- A width in microseconds at the run's rate (10_state.md R14); none while no rate is latched, since the conversion is
never called with rate 0 (40_timing_model.md R80; log 20). -/
def State.widthUs? (s : State) (w : Index) : Option Nat :=
  if s.cfgRate = 0 then none else some (samplesToUs s.cfgRate.toNat w.toNat)

/-- `high_us` (10_state.md R14). -/
def State.highUs? (s : State) : Option Nat := s.widthUs? s.highW

/-- `low_us` (10_state.md R14). -/
def State.lowUs? (s : State) : Option Nat := s.widthUs? s.lowW

/-- Status output `idle` (10_state.md R29). -/
def State.idle (s : State) : Bool := decide (s.ph = .idle)

/-- Status output `halted` (10_state.md R29). -/
def State.halted (s : State) : Bool := decide (s.ph = .halt)

/-- Status output `busy` (10_state.md R29). -/
def State.busy (s : State) : Bool := !s.idle && !s.halted

/-- Status output `chan` (10_state.md R29). -/
def State.chan (s : State) : Nat := s.cfgChan

end Sys2Proof.Machine
end

