-- ==== Sys2Proof/Machine/Flags.lean ====
section
/-! DEFINITION. The verdicts and flags: the reset classes and their warning (42_reset_detector.md), the mode update, and
the events of 60_exceptions.md with their codes. -/

namespace Sys2Proof.Machine

/-- The class of a low pulse (42_reset_detector.md R100). -/
inductive ResetClass where
  | notReset
  | resetStandard
  | resetOverdrive
deriving DecidableEq, Repr

/-- 42_reset_detector.md R101: all comparisons strict, the standard test first. -/
def classify (t : Thresholds) (w : Index) (odEff : Bool) : ResetClass :=
  if t.tStdMin < w then .resetStandard
  else if odEff && (decide (t.tOvdMin < w) && decide (w < t.tOvdMax)) then .resetOverdrive
  else .notReset

/-- 42_reset_detector.md R102: only a standard reset below the nominal width is flagged. -/
def resetWarning (t : Thresholds) (w : Index) (odEff : Bool) : Bool :=
  match classify t w odEff with
  | .resetStandard => decide (w < t.tStdNom)
  | .resetOverdrive => false
  | .notReset => false

/-- The mode update of 42_reset_detector.md R104: a pulse above the standard inside-margin threshold clears the flag. -/
def modeUpdate (t : Thresholds) (w : Index) (overdrive : Bool) : Bool :=
  if t.tStdMin < w then false else overdrive

/-- The event's code (60_exceptions.md R150); held in no register. -/
def eventCode : Event → BitVec 3
  | .glitch => 0
  | .invalidBitSlot => 1
  | .outOfSpecReset => 2
  | .configurationError => 3
  | .streamExhausted => 4
  | .cancelled => 5

/-- The `halt_reason` of an event that ends or prevents a run (60_exceptions.md R150); none for the three others. -/
def eventHaltReason : Event → Option HaltReason
  | .glitch => none
  | .invalidBitSlot => none
  | .outOfSpecReset => none
  | .configurationError => some .configurationError
  | .streamExhausted => some .streamExhausted
  | .cancelled => some .cancelled

end Sys2Proof.Machine
end

