-- ==== Sys2Proof/Machine/Ops.lean ====
section
/-! DEFINITION. The named operations over the sample space, the sink, and the ports; taking an event, and hardware reset. -/

namespace Sys2Proof.Machine

/-! ## The sample space -/

/-- The level at index `a` reached from level `l` through the edges (20_memory.md R41): every edge at or before `a`
turns it over. -/
def levelAfter (l : Level) : List Nat → Nat → Level
  | [], _ => l
  | e :: es, a => if e ≤ a then levelAfter l.flip es a else l

/-- `lvl(a)` (20_memory.md R41). An index before the first edge reads as the first level. -/
def Memory.level (m : Memory) (a : Nat) : Level := levelAfter m.first m.edges a

/-- The first edge after index `a`, `next(a)` (20_memory.md R44). -/
def firstAfter : List Nat → Nat → Option Nat
  | [], _ => none
  | e :: es, a => if a < e then some e else firstAfter es a

/-- `next(a)` (20_memory.md R44). -/
def Memory.next? (m : Memory) (a : Nat) : Option Nat := firstAfter m.edges a

/-- The list rises strictly, from above `lo` to below `hi`. -/
def risingIn (lo hi : Nat) : List Nat → Bool
  | [] => true
  | e :: es => decide (lo < e) && decide (e < hi) && risingIn e hi es

/-- The canonical form of a waveform (20_memory.md R41): it has a sample, its indices are below 2^64, and its edges rise
strictly inside it. -/
def Memory.wf (m : Memory) : Bool :=
  decide (m.base < m.stop) && decide (m.stop ≤ 2 ^ 64) && risingIn m.base m.stop m.edges

/-- There is a sample at index `a` (20_memory.md R41). -/
def Memory.holds (m : Memory) (a : Nat) : Bool := decide (m.base ≤ a) && decide (a < m.stop)

/-- A live source's samples up to `stop`, with the edges among them (20_memory.md R47): the samples delivered before stay
as they are (70_reset_and_hazards.md R182). -/
def Memory.extend (m : Memory) (edges : List Nat) (stop : Nat) : Memory :=
  { m with edges := m.edges ++ edges, stop := stop }

/-- The delivery only adds to what is there: the new edges rise from the old end on, and the end does not go back. -/
def Memory.extends (m : Memory) (edges : List Nat) (stop : Nat) : Bool :=
  decide (m.stop ≤ stop) && decide (stop ≤ 2 ^ 64) && risingIn (m.stop - 1) stop edges

/-- Whether the edge source can end now (00_scope.md R5): a live stream that the host has ended can (70_reset_and_hazards.md
R178; log 28). -/
def State.source (s : State) : StreamKind := if s.ended then .finite else s.params.stream

/-- The level under the cursor, `lvl(pos)` (20_memory.md R43). -/
def State.level (s : State) : Level := s.mem.level s.pos.toNat

/-! ## The sink -/

/-- `Emit(r)` (20_memory.md R48): appends; never fails, never blocks. -/
def emit (r : Record) (s : State) : State := { s with sink := s.sink ++ [r] }

/-- The records of the sink's open transaction: those after the last Commit (20_memory.md R50). -/
def openTransaction : List Record → List Record
  | [] => []
  | r :: rs => if Record.commit ∈ rs then openTransaction rs else if r = .commit then rs else r :: rs

/-- The record is a frame. -/
def Record.isFrame : Record → Bool
  | .frame _ _ _ _ _ => true
  | .commit => false
  | .marker _ _ => false
  | .progress _ => false

/-- The frame sequence: the trace with everything but the frames removed (30_encoding.md R74). -/
def frameSequence (rs : List Record) : List Record := rs.filter Record.isFrame

/-! ## Taking an event, and hardware reset -/

/-- TAKING AN EVENT (60_exceptions.md R150 to R159). The three that go on leave only their record: the diagnostic marker
at `fall` (R151), the marker at the checkpoint sample, which is where the cursor stands (R152), the warning the Restart
frame will carry (R153). The three that end or prevent a run write `halt_reason`, set `ph` to HALT, and save, mask and
emit nothing (R154, R156, R157, R159). -/
def raise (e : Event) (s : State) : State :=
  match e with
  | .glitch => emit (.marker s.fall .invalid) s
  | .invalidBitSlot => emit (.marker s.curRsp.sample .invalid) s
  | .outOfSpecReset => { s with rstWarn := true }
  | .configurationError => { s with haltReason := .configurationError, ph := .halt }
  | .streamExhausted => { s with haltReason := .streamExhausted, ph := .halt }
  | .cancelled => { s with haltReason := .cancelled, ph := .halt }

/-- HARDWARE RESET (70_reset_and_hazards.md R170), the only way out of HALT (60_exceptions.md R160): every register of the
core at its reset value, `cfg_chan` unspecified (a free value, log 7); the cursor, the sink and all else the core does not
own stay as they are; no record, no cursor command. -/
def hardwareReset (s : State) : State :=
  { s with
    ph := .idle, st := .unknown, haltReason := .none
    rise := 0, fall := 0, highW := 0, lowW := 0
    layer := .unknown, bits := 0, acc := 0, fieldStart := 0, bit := false
    overdrive := false, defer := false, rstWarn := false
    cfgRate := 0, cfgForce := false, cfgChan := Config.unspecifiedChannel s.freeSeq
    thr := Thresholds.zero
    waiting := none
    freeSeq := s.freeSeq + 1 }

/-! ## The cursor -/

/-- How a cursor command, or an operation up to one, ends. -/
inductive Res where
  /-- it has been answered -/
  | ok (s : State)
  /-- it cannot complete on a finite stream: `eos = 1`, position unchanged (20_memory.md R47) -/
  | eos (s : State)
  /-- it waits for samples of a live stream, all before it done (20_memory.md R47) -/
  | waits (s : State)
  | fault (r : Fault)
  | refused (r : Refusal)
deriving DecidableEq, Repr

/-- Go on with `k` once the command has been answered; else nothing more of the operation is executed
(60_exceptions.md R156). -/
def Res.andThen (r : Res) (k : State → Res) : Res :=
  match r with
  | .ok s => k s
  | .eos s => .eos s
  | .waits s => .waits s
  | .fault f => .fault f
  | .refused f => .refused f

/-- Write the answer to the port (30_encoding.md R67): `level` is that of the position after the command. -/
def answer (sample : Index) (eos : Bool) (s : State) : State :=
  { s with curRsp := { sample := sample, level := s.level, eos := eos } }

/-- A command is answered only where there is a sample (20_memory.md R41, R42; log 11). -/
def onSample (s : State) (r : Res) : Res :=
  if s.mem.holds s.pos.toNat then r else .fault .sampleOutsideData

/-- A command that finds no data (20_memory.md R47): end of stream where the source can end, else it waits. -/
def endOfData (s : State) : Res :=
  match s.source with
  | .finite => .eos (answer s.pos true s)
  | .live => .waits s

/-- `CurSample()` and `CurLevel()`, the command QUERY (20_memory.md R43). -/
def query (s : State) : Res := onSample s (.ok (answer s.pos false s))

/-- Move the cursor to `pos` and answer with it. -/
def moveTo (pos : Index) (s : State) : State := answer pos false { s with pos := pos }

/-- `AdvEdge()`, the command ADV_EDGE (20_memory.md R44). -/
def advEdge (s : State) : Res :=
  onSample s
    (match s.mem.next? s.pos.toNat with
    | some e => .ok (moveTo (BitVec.ofNat 64 e) s)
    | none => endOfData s)

/-- `PeekEdge()`, the command PEEK_EDGE (20_memory.md R45): the cursor stays. -/
def peekEdge (s : State) : Res :=
  onSample s
    (match s.mem.next? s.pos.toNat with
    | some e => .ok (answer (BitVec.ofNat 64 e) false s)
    | none => endOfData s)

/-- `AdvBy(n)`, the command ADV_BY (20_memory.md R46). On a live stream a position at or beyond 2^64 is outside the model
(93_implementation_defined.md U9; log 12). -/
def advBy (n : BitVec 32) (s : State) : Res :=
  onSample s
    (if s.pos.toNat + n.toNat < s.mem.stop then .ok (moveTo (s.pos + n.setWidth 64) s)
    else if s.source = .live ∧ 2 ^ 64 ≤ s.pos.toNat + n.toNat then .refused .indexBeyond64
    else endOfData s)

/-- The cursor command of an operation of the core, which stands at `p` while the command waits (60_exceptions.md R167). -/
def Res.waitingAt (p : WaitPoint) (r : Res) : Res :=
  match r with
  | .ok s => .ok s
  | .eos s => .eos s
  | .waits s => .waits { s with waiting := some p }
  | .fault f => .fault f
  | .refused f => .refused f

/-- How an operation of the core ends (60_exceptions.md R156, R167). With `eos` the event StreamExhausted is taken where the
command failed, the writes and records before it standing. While a command waits the writes and records before it stand
too, nothing after it is executed, and the core takes no step (log 10). -/
def finish (r : Res) : Out :=
  match r with
  | .ok t => .next t
  | .eos t => .next (raise .streamExhausted t)
  | .waits t => .next t
  | .fault f => .fault f
  | .refused f => .refused f

/-- How a command that stands at the cursor port ends (20_memory.md R47): it is answered, with `eos` if it could not
complete, and leaves the port; or it goes on waiting there. No operation of the core issued it, so none raises
StreamExhausted. -/
def finishCommand (s : State) (r : Res) : Out :=
  match r with
  | .ok t => .next { t with curCmd := none }
  | .eos t => .next { t with curCmd := none }
  | .waits _ => .next s
  | .fault f => .fault f
  | .refused f => .refused f

/-- The sink takes a record that stands at its port (20_memory.md R48, R55). -/
def acceptRecord (r : Record) (s : State) : State := emit r { s with snkWord := none }

/-! ## Pieces that several operations share -/

/-- `rise <- CurSample()`. -/
def riseFromCursor (s : State) : Res := (query s).andThen fun t => .ok { t with rise := t.curRsp.sample }

/-- `rise <- PeekEdge(); low_w <- rise - fall; ph <- GLITCH`, the end of MEASURE, GF_HIGH and GF_LOW
(41_acquire_glitch.md R90, R92, R93). -/
def measureLow (s : State) : Res :=
  ((peekEdge s).waitingAt .lowPulseEnd).andThen fun t => .ok { t with rise := t.curRsp.sample, lowW := t.curRsp.sample - t.fall, ph := .glitch }

/-- `AdvEdge(); fall <- CurSample(); high_w <- fall - rise`, then the low pulse (41_acquire_glitch.md R90, R92). -/
def measureFromRise (s : State) : Res :=
  ((advEdge s).waitingAt .fallingEdge).andThen fun t =>
  (query t).andThen fun u =>
  measureLow { u with fall := u.curRsp.sample, highW := u.curRsp.sample - u.rise }

/-- `AdvEdge(); rise <- CurSample()`, then the pulse pair from there: MEASURE out of a low period, and GF_HIGH
(41_acquire_glitch.md R90, R92). -/
def measureFromLow (s : State) : Res :=
  ((advEdge s).waitingAt .risingEdge).andThen fun t => (riseFromCursor t).andThen measureFromRise

/-- `layer <- Data; bits <- 0; acc <- 0; st <- Decoding` (45_decode_loop.md R137, 42_reset_detector.md R106). -/
def enterDecoding (s : State) : State :=
  { s with layer := .data, bits := 0, acc := 0, st := .decoding }

/-- Continue with `k` where the outcome is a next state. -/
def thenNext (o : Out) (k : State → Out) : Out :=
  match o with
  | .next s => k s
  | .fault f => .fault f
  | .refused f => .refused f

end Sys2Proof.Machine
end

