-- ==== Sys2Proof/Machine/Acquire.lean ====
section
/-! DEFINITION. Pulse-pair acquisition and the GlitchFilter (41_acquire_glitch.md): MEASURE, GF_HIGH, GF_LOW, GF_PASS. -/

namespace Sys2Proof.Machine

/-- MEASURE (41_acquire_glitch.md R90): a low period the cursor stands in is left first. -/
def execMeasure (s : State) : Out :=
  finish
    ((query s).andThen fun t =>
      match t.curRsp.level with
      | .low => measureFromLow t
      | .high => measureFromRise t)

/-- GF_HIGH (41_acquire_glitch.md R92). -/
def execGfHigh (s : State) : Out :=
  finish (measureFromLow (raise .glitch s))

/-- GF_LOW from its second `AdvEdge` on (41_acquire_glitch.md R93): the two high pulses and the short low pulse become one
high pulse. `old` is `fall`, which nothing before has written. -/
def mergeHighPulse (s : State) : Res :=
  ((advEdge s).waitingAt .mergedPulseEnd).andThen fun t =>
  (query t).andThen fun u =>
  measureLow { u with fall := u.curRsp.sample, highW := u.highW + (u.curRsp.sample - u.fall) }

/-- GF_LOW after its marker (41_acquire_glitch.md R93). -/
def skipLowSpike (s : State) : Res := ((advEdge s).waitingAt .spikeEnd).andThen mergeHighPulse

/-- GF_LOW (41_acquire_glitch.md R93). -/
def execGfLow (s : State) : Out :=
  finish (skipLowSpike (raise .glitch s))

/-- GF_PASS (41_acquire_glitch.md R94). -/
def execGfPass (s : State) : Out :=
  .next { s with defer := false, ph := if s.st = .unknown then .gapchk else .rstchk }

end Sys2Proof.Machine
end

