-- ==== Sys2Proof/Machine/BitSampler.lean ====
section
/-! DEFINITION. The BitSampler (43_bit_sampler.md): CHKPT, SPOINT. -/

namespace Sys2Proof.Machine

/-- The checkpoint (43_bit_sampler.md R111): High there is the event InvalidBitSlot (60_exceptions.md R152). -/
def readCheckpoint (s : State) : Res :=
  ((advBy (checkpointAdvance s) s).waitingAt .checkpoint).andThen fun t =>
    match t.curRsp.level with
    | .high => .ok { raise .invalidBitSlot t with ph := .progress }
    | .low => .ok { t with ph := .spoint }

/-- CHKPT (43_bit_sampler.md R111). -/
def execChkpt (s : State) : Out :=
  finish (readCheckpoint s)

/-- The sample point (43_bit_sampler.md R112). -/
def readSamplePoint (s : State) : Res :=
  ((advBy (samplePointAdvance s) s).waitingAt .samplePoint).andThen fun t =>
    match t.curRsp.level with
    | .high => .ok { emit (.marker t.curRsp.sample .one) t with bit := true, ph := .asm }
    | .low => .ok { emit (.marker t.curRsp.sample .zero) t with bit := false, ph := .asm }

/-- SPOINT (43_bit_sampler.md R112). -/
def execSpoint (s : State) : Out :=
  finish (readSamplePoint s)

end Sys2Proof.Machine
end

