-- ==== Sys2Proof/Machine/Cursor.lean ====
section
/-! DEFINITION. The EdgeCursor commands at their port (20_memory.md R43 to R47): QUERY, ADV_EDGE, PEEK_EDGE, ADV_BY. -/

namespace Sys2Proof.Machine

/-- QUERY (20_memory.md R43). -/
def execQuery (s : State) : Out := finishCommand s (query s)

/-- ADV_EDGE (20_memory.md R44). -/
def execAdvEdge (s : State) : Out := finishCommand s (advEdge s)

/-- PEEK_EDGE (20_memory.md R45). -/
def execPeekEdge (s : State) : Out := finishCommand s (peekEdge s)

/-- ADV_BY (20_memory.md R46). -/
def execAdvBy (n : BitVec 32) (s : State) : Out := finishCommand s (advBy n s)

end Sys2Proof.Machine
end

