-- ==== Sys2Proof/Machine/FrameAssembler.lean ====
section
/-! DEFINITION. The FrameAssembler (44_frame_assembler.md): ASM, EMIT. -/

namespace Sys2Proof.Machine

/-- The bit accepted: at position `bits`, least significant first (44_frame_assembler.md R120). -/
def acceptBit (s : State) : State :=
  { s with
    fieldStart := if s.bits = 0 then s.fall else s.fieldStart
    acc := s.acc ||| (bitValue s.bit <<< s.bits.toNat)
    bits := s.bits + 1 }

/-- ASM (44_frame_assembler.md R120): in layer Unknown the bit is dropped. -/
def execAsm (s : State) : Out :=
  match layerWidth? s.layer with
  | none => .next { s with ph := .progress }
  | some w => .next { acceptBit s with ph := if s.bits + 1 = w then .emit else .progress }

/-- EMIT (44_frame_assembler.md R121). -/
def execEmit (s : State) : Out :=
  .next
    { emit (.frame s.fieldStart s.rise (layerKind s.layer) s.acc false) s with
      bits := 0, acc := 0, layer := layerNext s.layer, ph := .progress }

end Sys2Proof.Machine
end

