-- ==== Sys2Proof/Machine/Loop.lean ====
section
/-! DEFINITION. The DecodeLoop (45_decode_loop.md): IDLE, START, GAPCHK, GAPFLUSH, PROGRESS, CANCELCHK, HALT. -/

namespace Sys2Proof.Machine

/-- IDLE (45_decode_loop.md R132). -/
def execIdle (s : State) : Out :=
  .next { s with ph := if s.pins.start then .start else .idle }

/-- The registers START builds (45_decode_loop.md R131), `rise` apart. -/
def startRegisters (s : State) : State :=
  { s with
    cfgRate := s.pins.sampleRateHz
    cfgForce := s.pins.forceOverdrive
    cfgChan := s.pins.channel
    thr := thresholds s.params s.pins.sampleRateHz
    st := .unknown, layer := .unknown, bits := 0, acc := 0
    fieldStart := 0, bit := false, rstWarn := false, defer := false
    overdrive := initialOverdrive s.params.overdriveInit s.pins.forceOverdrive
    fall := 0, highW := 0, lowW := 0 }

/-- START rejects the configuration: a rate below the floor or no channel (45_decode_loop.md R131, 60_exceptions.md
R154). -/
def configurationBad (s : State) : Bool :=
  decide (s.pins.sampleRateHz.toNat < s.params.minSampleRateHz) || !s.pins.channelValid

/-- START (45_decode_loop.md R131). A run whose parameter record is not admissible has no meaning (00_scope.md R6;
log 14). -/
def execStart (s : State) : Out :=
  if !admissible s.params then .refused .inadmissibleParameters
  else if configurationBad s then .next (raise .configurationError s)
  else
    finish ((riseFromCursor (startRegisters s)).andThen fun t =>
      .ok { t with haltReason := .none, ph := .measure })

/-- GAPCHK (45_decode_loop.md R136): the comparison is strict. -/
def execGapchk (s : State) : Out :=
  if s.thr.tGap < s.highW then
    .next { emit (.marker s.fall .start) s with st := .newTransactionGap, ph := .gapflush }
  else
    .next { emit (.marker s.fall .downArrow) s with ph := .rstchk }

/-- GAPFLUSH (45_decode_loop.md R137). -/
def execGapflush (s : State) : Out :=
  .next { enterDecoding (emit .commit s) with ph := .rstchk }

/-- PROGRESS, the operation (45_decode_loop.md R138). -/
def execProgress (s : State) : Out :=
  finish ((query s).andThen fun t => .ok { emit (.progress t.curRsp.sample) t with ph := .cancelchk })

/-- CANCELCHK (45_decode_loop.md R139): the only sampling of `cancel`. -/
def execCancelchk (s : State) : Out :=
  if s.pins.cancel then .next (raise .cancelled s) else .next { s with ph := .measure }

/-- HALT (45_decode_loop.md R140): nothing changes. -/
def execHalt (s : State) : Out := .next { s with ph := .halt }

end Sys2Proof.Machine
end

