-- ==== Sys2Proof/Machine/ResetDetector.lean ====
section
/-! DEFINITION. The ResetDetector (42_reset_detector.md): RSTCHK, RSTACC, RSTRE. -/

namespace Sys2Proof.Machine

/-- `rst_warn <- warning(low_w, od_eff)` (42_reset_detector.md R103): the event OutOfSpecReset when it is 1
(60_exceptions.md R153). -/
def recordWarning (s : State) : State :=
  if resetWarning s.thr s.lowW s.odEff then raise .outOfSpecReset s else { s with rstWarn := false }

/-- RSTCHK (42_reset_detector.md R103). -/
def execRstchk (s : State) : Out :=
  match classify s.thr s.lowW s.odEff with
  | .notReset => .next { s with ph := .chkpt }
  | .resetStandard => .next { recordWarning s with ph := .rstacc }
  | .resetOverdrive => .next { recordWarning s with ph := .rstacc }

/-- RSTACC up to its cursor command (42_reset_detector.md R104, R105): the Commit before the Restart frame. -/
def acceptReset (s : State) : State :=
  emit (.frame s.fall s.rise .restart 0 s.rstWarn)
    (emit .commit { s with overdrive := modeUpdate s.thr s.lowW s.overdrive, st := .resetObserved })

/-- RSTACC from its cursor command on (42_reset_detector.md R105). -/
def leaveReset (s : State) : Res :=
  ((advEdge s).waitingAt .resetEnd).andThen fun t => .ok { t with ph := .rstre }

/-- RSTACC (42_reset_detector.md R105). -/
def execRstacc (s : State) : Out :=
  finish (leaveReset (acceptReset s))

/-- RSTRE (42_reset_detector.md R106). -/
def execRstre (s : State) : Out :=
  .next { enterDecoding s with defer := true, ph := .progress }

end Sys2Proof.Machine
end

