-- ==== Sys2Proof/Machine/Sink.lean ====
section
/-! DEFINITION. The sink records at their port (20_memory.md R48 to R52): FRAME, COMMIT, MARKER, PROGRESS. -/

namespace Sys2Proof.Machine

/-- FRAME (20_memory.md R49). -/
def execFrame (startSample endSample : Index) (kind : FrameKind) (value : BitVec 48) (warning : Bool) (s : State) : Out :=
  .next (acceptRecord (.frame startSample endSample kind value warning) s)

/-- COMMIT (20_memory.md R50). -/
def execCommit (s : State) : Out := .next (acceptRecord .commit s)

/-- MARKER (20_memory.md R51). -/
def execMarker (sample : Index) (kind : MarkerKind) (s : State) : Out :=
  .next (acceptRecord (.marker sample kind) s)

/-- PROGRESS, the record (20_memory.md R52). -/
def execProgressRec (sample : Index) (s : State) : Out := .next (acceptRecord (.progress sample) s)

end Sys2Proof.Machine
end

