-- ==== Sys2Proof/Machine/Dispatch.lean ====
section
/-! DEFINITION. The dispatch: one arm per operation. -/

namespace Sys2Proof.Machine

/-- The meaning of an operation. -/
def exec (i : Instr) (s : State) : Host.Outcome State Fault Refusal :=
  match i with
  | .idle => Sys2Proof.Machine.execIdle s
  | .start => Sys2Proof.Machine.execStart s
  | .measure => Sys2Proof.Machine.execMeasure s
  | .gfHigh => Sys2Proof.Machine.execGfHigh s
  | .gfLow => Sys2Proof.Machine.execGfLow s
  | .gfPass => Sys2Proof.Machine.execGfPass s
  | .gapchk => Sys2Proof.Machine.execGapchk s
  | .gapflush => Sys2Proof.Machine.execGapflush s
  | .rstchk => Sys2Proof.Machine.execRstchk s
  | .rstacc => Sys2Proof.Machine.execRstacc s
  | .rstre => Sys2Proof.Machine.execRstre s
  | .chkpt => Sys2Proof.Machine.execChkpt s
  | .spoint => Sys2Proof.Machine.execSpoint s
  | .asm => Sys2Proof.Machine.execAsm s
  | .emit => Sys2Proof.Machine.execEmit s
  | .progress => Sys2Proof.Machine.execProgress s
  | .cancelchk => Sys2Proof.Machine.execCancelchk s
  | .halt => Sys2Proof.Machine.execHalt s
  | .query => Sys2Proof.Machine.execQuery s
  | .advEdge => Sys2Proof.Machine.execAdvEdge s
  | .peekEdge => Sys2Proof.Machine.execPeekEdge s
  | .advBy n => Sys2Proof.Machine.execAdvBy n s
  | .frame startSample endSample kind value warning => Sys2Proof.Machine.execFrame startSample endSample kind value warning s
  | .commit => Sys2Proof.Machine.execCommit s
  | .marker sample kind => Sys2Proof.Machine.execMarker sample kind s
  | .progressRec sample => Sys2Proof.Machine.execProgressRec sample s

end Sys2Proof.Machine
end

