-- ==== Sys2Proof/Machine/Fetch.lean ====
section
/-! DEFINITION. Where the next operation comes from, and what the outside does between two operations. -/

namespace Sys2Proof.Machine

/-- The word the next step executes (log 1): a cursor command that waits at its port is answered before the core takes any
further step (20_memory.md R55), a record at the sink port is taken, else the phase register selects
(45_decode_loop.md R130). -/
def fetchWord (s : State) : FetchWord :=
  match s.curCmd with
  | some w => .curCmd w
  | none =>
    match s.snkWord with
    | some w => .snk w
    | none => .phase s.ph.code

/-- The operation the next step executes: the word decoded, phase GLITCH by the selection of 41_acquire_glitch.md R91. -/
def fetch (s : State) : Except DecodeError Instr := decode (glitchSelect s) (fetchWord s)

/-- The host drives its pins (10_state.md R26). -/
def turnPins (p : Option Pins) (s : State) : State :=
  match p with
  | some p => { s with pins := p }
  | none => s

/-- The edge source is bound to a capture and its cursor placed (70_reset_and_hazards.md R173): only while no run is on
(R182), and only on a sample of a waveform (20_memory.md R41, R42; log 13). The new stream has not been ended. -/
def turnCapture (c : Option (Memory × Index)) (s : State) : Out :=
  match c with
  | none => .next s
  | some (m, p) =>
    if s.busy || !m.wf || !m.holds p.toNat then .refused .edgeSourceContract
    else .next { s with mem := m, pos := p, ended := false }

/-- A live source delivers samples (20_memory.md R47); a finite capture, or a stream that has been ended, does not change
(70_reset_and_hazards.md R182; log 13). -/
def turnDeliver (d : Option (List Nat × Nat)) (s : State) : Out :=
  match d with
  | none => .next s
  | some (edges, stop) =>
    if s.source = .live ∧ s.mem.extends edges stop = true then .next { s with mem := s.mem.extend edges stop }
    else .refused .edgeSourceContract

/-- The host ends the stream (70_reset_and_hazards.md R178): nothing comes after the samples delivered so far (log 28). -/
def turnEnd (e : Bool) (s : State) : State := if e then { s with ended := true } else s

/-- What the outside does between two operations: the next entry of the script (log 4). With an empty script the pins and
the waveform stay as they are. -/
def hostTurn (s : State) : Out :=
  match s.script with
  | [] => .next s
  | t :: ts =>
    thenNext (turnCapture t.capture (turnPins t.pins { s with script := ts })) fun u =>
    thenNext (turnDeliver t.deliver u) fun v => .next (turnEnd t.ends v)

end Sys2Proof.Machine
end

