-- ==== Sys2Proof/Machine/Resume.lean ====
section
/-! DEFINITION. How an operation that waits on a live stream goes on. -/

namespace Sys2Proof.Machine

/-- What is left of an operation from the cursor command that waits on (20_memory.md R47). -/
def rest (p : WaitPoint) (s : State) : Res :=
  match p with
  | .risingEdge => measureFromLow s
  | .fallingEdge => measureFromRise s
  | .lowPulseEnd => measureLow s
  | .spikeEnd => skipLowSpike s
  | .mergedPulseEnd => mergeHighPulse s
  | .checkpoint => readCheckpoint s
  | .samplePoint => readSamplePoint s
  | .resetEnd => leaveReset s

/-- The command that waits is put to the edge source again, and if it is answered the operation "resumes when the edge
source answers" (60_exceptions.md R167(b)). -/
def resume (p : WaitPoint) (s : State) : Out := finish (rest p { s with waiting := none })

/-- Hardware reset of an operation in progress. Where its command is answered now the operation completes "and the reset then
replaces its result" (70_reset_and_hazards.md R170); where it still waits, or the model stops it, the reset, which overrides
everything, abandons it (60_exceptions.md R158(f), 70_reset_and_hazards.md R178; log 10). -/
def resetInProgress (p : WaitPoint) (s : State) : State :=
  match resume p s with
  | .next t => hardwareReset t
  | .fault _ => hardwareReset s
  | .refused _ => hardwareReset s

end Sys2Proof.Machine
end

