-- ==== Sys2Proof/Machine/Step.lean ====
section
/-! DEFINITION. One step of the machine, and how a given word comes to be the next one fetched. -/

namespace Sys2Proof.Machine

/-- One step. With `rst` high the hardware reset, which overrides everything (70_reset_and_hazards.md R170, 60_exceptions.md
R158(f)), once an operation in progress has gone as far as the samples that are there take it. With `rst` low an operation
in progress goes on; with none in progress the fetched operation, up to a command that has to wait (00_scope.md R9,
60_exceptions.md R167). Then the outside's turn. -/
def step (s : State) : Host.Outcome State Fault Refusal :=
  match s.waiting with
  | some p => if s.pins.rst then hostTurn (resetInProgress p s) else thenNext (resume p s) hostTurn
  | none =>
    if s.pins.rst then hostTurn (hardwareReset s)
    else
      match fetch s with
      | .error e => .refused (.reservedEncoding e)
      | .ok i => thenNext (exec i s) hostTurn

/-- The state with the instruction of a table word where the next step fetches it (log 1): a phase code in `ph`, a command
word at the cursor port, a record word at the sink port; no other port and no operation in progress comes before it, and
`rst` is low. -/
def State.withFetchWord (s : State) (nbits w : Nat) : State :=
  let t : State := { s with pins := { s.pins with rst := false }, waiting := none, curCmd := none, snkWord := none }
  match (formatOf nbits).word w with
  | .phase c => { t with ph := Phase.ofCode c }
  | .curCmd c => { t with curCmd := some c }
  | .snk c => { t with snkWord := some c }

end Sys2Proof.Machine
end

