-- ==== Sys2Proof/Machine/Formats.lean ====
section
/-! DEFINITION. The packed and the written forms of what passes a port (30_encoding.md): sink records, cursor answers, the
configuration word, stimuli and traces. No operation reads them. -/

namespace Sys2Proof.Machine

/-- A sink record as an operation of the table. -/
def Record.instr : Record → Instr
  | .frame startSample endSample kind value warning => .frame startSample endSample kind value warning
  | .commit => .commit
  | .marker sample kind => .marker sample kind
  | .progress sample => .progressRec sample

/-- The `SNK` word of a record (30_encoding.md R68). -/
def Record.pack : Record → BitVec 181
  | .frame startSample endSample kind value warning => encodeFrame startSample endSample kind value warning
  | .commit => 1
  | .marker sample kind => encodeMarker sample kind
  | .progress sample => encodeProgress sample

/-- The `CUR_RSP` word of an answer (30_encoding.md R67). -/
def CurRsp.pack (r : CurRsp) : BitVec 66 := BitVec.ofBool r.eos ++ r.level.code ++ r.sample

/-- The answer in a `CUR_RSP` word (30_encoding.md R67). -/
def CurRsp.unpack (w : BitVec 66) : CurRsp where
  sample := w.extractLsb' 0 64
  level := if w.getLsbD 64 then .high else .low
  eos := w.getLsbD 65

/-- The `CFG` word of the configuration pins, without the opaque channel above bit 33 (30_encoding.md R69). -/
def Pins.cfgWord (p : Pins) : BitVec 34 :=
  BitVec.ofBool p.channelValid ++ BitVec.ofBool p.forceOverdrive ++ p.sampleRateHz

/-- The configuration pins driven from a `CFG` word and a channel (30_encoding.md R69). -/
def Pins.withCfg (p : Pins) (w : BitVec 34) (channel : Nat) : Pins :=
  { p with
    sampleRateHz := w.extractLsb' 0 32
    forceOverdrive := w.getLsbD 32
    channelValid := w.getLsbD 33
    channel := channel }

/-- A stimulus: a run-length list of levels (30_encoding.md R73). -/
abbrev Stimulus := List (Level × Nat)

/-- The runs have at least one sample each and alternate, the next being of level `l` (30_encoding.md R73). -/
def alternates (l : Level) : Stimulus → Bool
  | [] => true
  | (k, n) :: rs => decide (k = l) && decide (1 ≤ n) && alternates l.flip rs

/-- The edges of a run-length list that begins at index `a`: where each run but the last ends. -/
def stimulusEdges (a : Nat) : Stimulus → List Nat
  | [] => []
  | [_] => []
  | (_, n) :: r :: rs => (a + n) :: stimulusEdges (a + n) (r :: rs)

/-- How many samples a run-length list has. -/
def stimulusLength : Stimulus → Nat
  | [] => 0
  | (_, n) :: rs => n + stimulusLength rs

/-- The waveform a stimulus describes from index `base` on (30_encoding.md R73); none if it describes none. -/
def stimulusMemory (base : Nat) (rs : Stimulus) : Option Memory :=
  match rs with
  | [] => none
  | (l, _) :: _ =>
    if alternates l rs then
      some { base := base, stop := base + stimulusLength rs, first := l, edges := stimulusEdges base rs }
    else none

/-- Macro `IDLE(us)` (30_encoding.md R73). -/
def stimIdle (us : Nat) : Stimulus := [(.high, 2 * us)]

/-- Macro `RESET(us)` (30_encoding.md R73). -/
def stimReset (us : Nat) : Stimulus := [(.low, 2 * us), (.high, 200)]

/-- Macro `ONE` (30_encoding.md R73). -/
def stimOne : Stimulus := [(.low, 40), (.high, 160)]

/-- Macro `ZERO` (30_encoding.md R73). -/
def stimZero : Stimulus := [(.low, 120), (.high, 80)]

/-- Macro `FIELD(v, n)`: `n` slots, least significant bit first (30_encoding.md R73). -/
def stimField (v : Nat) : Nat → Stimulus
  | 0 => []
  | n + 1 => (if v % 2 = 1 then stimOne else stimZero) ++ stimField (v / 2) n

/-- Macro `GLITCH_L(n)` (30_encoding.md R73). -/
def stimGlitchLow (n : Nat) : Stimulus := [(.low, n)]

/-- Macro `GLITCH_H(n)` (30_encoding.md R73). -/
def stimGlitchHigh (n : Nat) : Stimulus := [(.high, n)]

/-- A frame kind's name in a trace (30_encoding.md R74). -/
def frameKindName : FrameKind → String
  | .restart => "Restart"
  | .data => "Data"
  | .command => "Command"
  | .crc => "CRC"

/-- A marker kind's name in a trace (30_encoding.md R74). -/
def markerKindName : MarkerKind → String
  | .invalid => "Invalid"
  | .start => "Start"
  | .downArrow => "DownArrow"
  | .zero => "Zero"
  | .one => "One"

/-- A number in hexadecimal, as the vectors write it. -/
def hexText (n : Nat) : String := "0x" ++ String.ofList ((Nat.toDigits 16 n).map Char.toUpper)

/-- A record's line in a trace (30_encoding.md R74). -/
def Record.line : Record → String
  | .frame startSample endSample kind value warning =>
    "FRAME " ++ toString startSample.toNat ++ " " ++ toString endSample.toNat ++ " " ++ frameKindName kind ++ " " ++
      hexText value.toNat ++ " w=" ++ (if warning then "1" else "0")
  | .commit => "COMMIT"
  | .marker sample kind => "MARKER " ++ toString sample.toNat ++ " " ++ markerKindName kind
  | .progress sample => "PROGRESS " ++ toString sample.toNat

/-- How a sink's export renders a reset pulse (30_encoding.md R72); the Data, Command and CRC texts are the sink's own
(00_scope.md R4(c)). -/
def resetText (warning : Bool) : String := if warning then "Reset Pulse ( out of spec )" else "Reset Pulse"

end Sys2Proof.Machine
end

