-- ==== Sys2Proof/WellFormed.lean ====
section
/-! DEFINITION. Which operations are well formed: the limits the spec sets on a record's fields beyond their widths. -/

namespace Sys2Proof

/-- How many bits the value of a frame of this kind has: "A Data value is below 2^16, a CRC value below 2^8, a Restart
value is 0" (20_memory.md R49); a Command value has all 48. -/
def FrameKind.valueBits : FrameKind → Nat
  | .restart => 0
  | .data => 16
  | .command => 48
  | .crc => 8

/-- A frame's value fits its kind (20_memory.md R49). -/
def FrameKind.valueFits (k : FrameKind) (value : BitVec 48) : Bool :=
  decide (value.toNat < 2 ^ k.valueBits)

/-- Only a Restart frame may carry a warning: "the source attaches a warning only to reset pulses"
(44_frame_assembler.md R121(c)). -/
def FrameKind.warningFits (k : FrameKind) (warning : Bool) : Bool :=
  !warning || decide (k = .restart)

/-- Well-formedness. Every operand of every operation but FRAME may have every value of its type: the reserved marker
codes and the operand of QUERY, ADV_EDGE and PEEK_EDGE cannot be written at all (30_encoding.md R71). -/
def Instr.wellFormed : Instr → Bool
  | .idle => true
  | .start => true
  | .measure => true
  | .gfHigh => true
  | .gfLow => true
  | .gfPass => true
  | .gapchk => true
  | .gapflush => true
  | .rstchk => true
  | .rstacc => true
  | .rstre => true
  | .chkpt => true
  | .spoint => true
  | .asm => true
  | .emit => true
  | .progress => true
  | .cancelchk => true
  | .halt => true
  | .query => true
  | .advEdge => true
  | .peekEdge => true
  | .advBy _ => true
  | .frame _ _ kind value warning => kind.valueFits value && kind.warningFits warning
  | .commit => true
  | .marker _ _ => true
  | .progressRec _ => true

end Sys2Proof
end

