-- ==== Sys2Proof/Safety.lean ====
section
/-! DEFINITION. The terms claims are stated in: edges by the levels around them, the transition table, what holds in a run,
and a field fed bit by bit. -/

namespace Sys2Proof.Machine

/-- `e` is `next(a)` as 20_memory.md R44 says it: the least `e` with `a < e < s_end` and `lvl(e) ≠ lvl(a)`. -/
abbrev Memory.NextEdge (m : Memory) (a e : Nat) : Prop :=
  a < e ∧ e < m.stop ∧ m.level e ≠ m.level a ∧ ∀ b, b < e → a < b → m.level b = m.level a

/-- There is no `next(a)` (20_memory.md R44): the level stays to the end of the data. -/
abbrev Memory.NoEdge (m : Memory) (a : Nat) : Prop :=
  ∀ b, b < m.stop → a < b → m.level b = m.level a

/-- What holds of the waveform and the cursor: the canonical form, and a sample under the cursor (20_memory.md R41, R42). -/
abbrev MemoryInv (s : State) : Prop := s.mem.wf = true ∧ s.mem.holds s.pos.toNat = true

/-- What holds of the control, status and assembler registers at every boundary between operations (10_state.md R16, R17,
R24, R25, R30). -/
abbrev ControlInv (s : State) : Prop :=
  (s.layer = .unknown → s.bits = 0 ∧ s.acc = 0) ∧
  (∀ w ∈ layerWidth? s.layer, s.bits < w ∨ (s.bits = w ∧ s.ph = .emit)) ∧
  (s.ph = .emit → layerWidth? s.layer = some s.bits) ∧
  s.acc.toNat < 2 ^ s.bits.toNat ∧
  (s.defer = true → s.ph ∈ [Phase.progress, .cancelchk, .measure, .glitch, .halt]) ∧
  (s.st = .newTransactionGap ↔ s.ph = .gapflush) ∧
  (s.st = .resetObserved ↔ s.ph = .rstre) ∧
  (s.ph = .gapchk → s.st = .unknown) ∧
  (s.st = .unknown → s.layer = .unknown) ∧
  (s.st = .newTransactionGap → s.layer = .unknown) ∧
  (s.st = .decoding → s.layer ≠ .unknown) ∧
  (s.haltReason = .none ↔ s.ph ≠ .halt)

/-- The phases in which a measured pulse pair is being looked at, the cursor standing on its falling edge. -/
def phaseOnPulse (p : Phase) : Bool :=
  decide (p ∈ [Phase.glitch, .gapchk, .gapflush, .rstchk, .rstacc, .chkpt])

/-- The phases of an iteration that are not on the pulse. -/
def phaseOffPulse (p : Phase) : Bool :=
  decide (p ∈ [Phase.measure, .rstre, .spoint, .asm, .emit, .progress, .cancelchk])

/-- What holds of the cursor against the registers during a run (10_state.md R11 to R13, R30(a); 41_acquire_glitch.md R95):
on the pulse the cursor stands on the falling edge `fall`, Low, and `rise` is the next edge; off the pulse a High cursor is
not before `rise`. -/
abbrev CursorInv (s : State) : Prop :=
  (phaseOnPulse s.ph = true →
    s.pos = s.fall ∧ s.level = .low ∧ s.mem.NextEdge s.fall.toNat s.rise.toNat ∧ s.lowW = s.rise - s.fall ∧
      s.highW ≤ s.fall) ∧
  (s.ph = .spoint → s.fall ≤ s.pos ∧ s.mem.level s.fall.toNat = .low ∧ s.mem.NextEdge s.fall.toNat s.rise.toNat) ∧
  (phaseOffPulse s.ph = true → s.fall ≤ s.rise ∧ (s.level = .high → s.rise ≤ s.pos))

/-- What holds of the configuration during a run: the thresholds are those of the latched rate, the parameter record is
admissible, the rate is not below the floor (10_state.md R27, R28; 00_scope.md R6). -/
abbrev ConfigInv (s : State) : Prop :=
  s.ph ∉ [Phase.idle, .start, .halt] →
    s.thr = thresholds s.params s.cfgRate ∧ admissible s.params = true ∧ s.params.minSampleRateHz ≤ s.cfgRate.toNat

/-- No word of the outside's stands at a port: the core is the one master of the cursor (70_reset_and_hazards.md R182). -/
abbrev PortsIdle (s : State) : Prop := s.curCmd = none ∧ s.snkWord = none

/-- The operations that can stand at a point while their cursor command waits (log 10). -/
def WaitPoint.operations : WaitPoint → List Instr
  | .risingEdge => [.measure, .gfHigh]
  | .fallingEdge => [.measure, .gfHigh]
  | .lowPulseEnd => [.measure, .gfHigh, .gfLow]
  | .spikeEnd => [.gfLow]
  | .mergedPulseEnd => [.gfLow]
  | .checkpoint => [.chkpt]
  | .samplePoint => [.spoint]
  | .resetEnd => [.rstacc]

/-- The points at which MEASURE, GF_HIGH and GF_LOW may have written some of the pulse pair and not yet all. -/
def State.measuring (s : State) : Bool :=
  decide (s.waiting ∈ [some WaitPoint.risingEdge, some .fallingEdge, some .lowPulseEnd, some .spikeEnd,
    some .mergedPulseEnd])

/-- What holds while an operation is in progress (20_memory.md R47, 60_exceptions.md R167, R105 of 42_reset_detector.md): the
stream is live, the phase is that of an operation that can wait there, RSTACC never waits, and the cursor stands where the
commands before have left it. -/
abbrev WaitInv (s : State) : Prop :=
  (s.waiting ≠ none → s.params.stream = .live) ∧
  (s.measuring = true → s.ph ∈ [Phase.measure, .glitch]) ∧
  (s.waiting = some .checkpoint → s.ph = .chkpt) ∧
  (s.waiting = some .samplePoint → s.ph = .spoint) ∧
  s.waiting ≠ some .resetEnd ∧
  (s.waiting = some .risingEdge → s.level = .low) ∧
  (s.waiting = some .fallingEdge → s.level = .high ∧ s.rise ≤ s.pos) ∧
  (s.waiting = some .lowPulseEnd → s.level = .low ∧ s.pos = s.fall ∧ s.highW ≤ s.fall) ∧
  (s.waiting = some .spikeEnd → s.level = .low ∧ s.pos = s.fall ∧ s.highW ≤ s.fall) ∧
  (s.waiting = some .mergedPulseEnd → s.level = .high ∧ s.fall ≤ s.pos ∧ s.highW ≤ s.fall)

/-- What holds before and after every step: at every boundary between operations, and while one is in progress, when the
registers of the pulse pair are partly written. -/
structure RunInv (s : State) : Prop where
  memory : MemoryInv s
  control : ControlInv s
  cursor : s.measuring = false → CursorInv s
  config : ConfigInv s
  ports : PortsIdle s
  waits : WaitInv s

/-- Every frame in the sink fits its kind (20_memory.md R49). -/
abbrev SinkFits (s : State) : Prop := ∀ r ∈ s.sink, r.instr.wellFormed = true

/-- The possible next phases (45_decode_loop.md R130), and no other. -/
def nextPhases : Phase → List Phase
  | .idle => [.idle, .start]
  | .start => [.measure, .halt]
  | .measure => [.glitch, .halt]
  | .glitch => [.glitch, .gapchk, .rstchk, .halt]
  | .gapchk => [.gapflush, .rstchk]
  | .gapflush => [.rstchk]
  | .rstchk => [.rstacc, .chkpt]
  | .rstacc => [.rstre]
  | .rstre => [.progress]
  | .chkpt => [.spoint, .progress, .halt]
  | .spoint => [.asm, .halt]
  | .asm => [.emit, .progress]
  | .emit => [.progress]
  | .progress => [.cancelchk]
  | .cancelchk => [.measure, .halt]
  | .halt => [.halt]

/-- The operations of the core that may send a frame of a kind (20_memory.md R49). -/
def frameEmitters : FrameKind → List Instr
  | .restart => [.rstacc]
  | .data => [.emit]
  | .command => [.emit]
  | .crc => [.emit]

/-- The operations of the core that may send a marker of a kind (20_memory.md R51). -/
def markerEmitters : MarkerKind → List Instr
  | .invalid => [.gfHigh, .gfLow, .chkpt]
  | .start => [.gapchk]
  | .downArrow => [.gapchk]
  | .zero => [.spoint]
  | .one => [.spoint]

/-- The operations that may put a record into the sink (20_memory.md R49 to R52): of the core's, those the rules name for
its kind; and the record itself where it stands at the sink's port. -/
def Record.emitters (r : Record) : List Instr :=
  r.instr ::
    match r with
    | .frame _ _ kind _ _ => frameEmitters kind
    | .commit => [.gapflush, .rstacc]
    | .marker _ kind => markerEmitters kind
    | .progress _ => [.progress]

/-- The number a list of bits stands for, the first bit least significant (20_memory.md R53). -/
def bitsValue : List Bool → Nat
  | [] => 0
  | b :: bs => (if b then 1 else 0) + 2 * bitsValue bs

/-- ASM once for each slot of the list, as if MEASURE and SPOINT had left the slot's falling edge and bit
(44_frame_assembler.md R120). -/
def assemble : List (Bool × Index) → State → Out
  | [], s => .next s
  | (b, f) :: slots, s => thenNext (exec .asm { s with bit := b, fall := f }) (assemble slots)

end Sys2Proof.Machine
end

