-- ==== Sys2Proof/Certificates/Slice0/Obligations.lean ====
section
/-! DEFINITION. The statements for the provers. Where a statement rests on one of the spec's own decisions (D<n> of
92_eei_decisions.md, log 26) or on a choice of this model's, its docstring says so. -/

open Sys2Proof Sys2Proof.Machine

/-! ## Encoding -/

/-- Words written out from the spec's encodings decode to the operations they stand for: 45_decode_loop.md R130 (phase
codes 2, 8, 12), 30_encoding.md R66 (`0x7B` is ADV_BY 30) and the worked examples of R68. The codes are the spec's decision
D25. -/
def Obligations.SpecWordsDecode : Prop :=
  decodeTableWord 4 0x2 = some .measure ∧
  decodeTableWord 4 0x8 = some .rstre ∧
  decodeTableWord 4 0xC = some .emit ∧
  decodeTableWord 34 0x7B = some (.advBy 30) ∧
  decodeTableWord 34 0x1 = some .advEdge ∧
  decodeTableWord 181 0x12C00000000000000320 = some (.frame 200 1200 .restart 0 false) ∧
  decodeTableWord 181 0x80000000000000322 = some (.marker 200 .downArrow) ∧
  decodeTableWord 181 0x1 = some .commit ∧
  decodeTableWord 181 0x12C3 = some (.progressRec 1200)

/-- Decoding the encoding of any operation, with every operand at every value, gives it back. The three operations of phase
GLITCH share a code, so each comes back under the selection that makes it the one executed (41_acquire_glitch.md R91). The
codes and layouts are the spec's decision D25. -/
def Obligations.DecodeOfEncodeIsIdentity : Prop :=
  ∀ (i : Instr) (sel : GlitchSel), (i.phase? = some .glitch → sel = i.glitchSel) → decode sel (encode i) = .ok i

/-- Every word has at most one meaning and every meaning one word: a word that decodes to an operation is that operation's
encoding (spec's decision D25). -/
def Obligations.EncodeOfDecodeIsTheWord : Prop :=
  ∀ (w : FetchWord) (sel : GlitchSel) (i : Instr), decode sel w = .ok i → encode i = w

/-- The reserved words of 30_encoding.md R71 (a), (b), (c) are refused, each by its own name (spec's decision D25). -/
def Obligations.ReservedWordsAreRefused : Prop :=
  (∀ w : BitVec 34, w.extractLsb' 0 2 ≠ 3 → w.extractLsb' 2 32 ≠ 0 → decodeCurCmd w = .error .operandOnOtherCommand) ∧
  (∀ w : BitVec 181, w.extractLsb' 0 2 = 1 → w.extractLsb' 2 179 ≠ 0 → decodeSnk w = .error .unlistedSinkBits) ∧
  (∀ w : BitVec 181, w.extractLsb' 0 2 = 2 → w.extractLsb' 69 112 ≠ 0 → decodeSnk w = .error .unlistedSinkBits) ∧
  (∀ w : BitVec 181, w.extractLsb' 0 2 = 2 → w.extractLsb' 69 112 = 0 → 5 ≤ (w.extractLsb' 66 3).toNat →
    decodeSnk w = .error .reservedMarkerKind) ∧
  (∀ w : BitVec 181, w.extractLsb' 0 2 = 3 → w.extractLsb' 66 115 ≠ 0 → decodeSnk w = .error .unlistedSinkBits)

/-- Packed little-endian: byte `k` holds bits `8k+7` down to `8k`, and the bytes read back as the number they were made of
(20_memory.md 4, spec's decision D25). -/
def Obligations.PackedBytesAreLittleEndian : Prop :=
  ∀ (n w : Nat),
    (natToBytes n w).length = n ∧
    (∀ k (h : k < (natToBytes n w).length), ((natToBytes n w)[k]).toNat = w / 256 ^ k % 256) ∧
    bytesToNat (natToBytes n w) = w % 256 ^ n

/-! ## The step -/

/-- With no operation in progress and `rst` low, a step executes the operation decoded from the word the machine fetches, and
then the outside has its turn; a reserved word is refused (log 1, log 4: the model's choices). With no word at a port the
operation is the one the phase register selects (45_decode_loop.md R130). An operation in progress goes on
(60_exceptions.md, Wait states; log 10). -/
def Obligations.StepRunsTheDecodedOperation : Prop :=
  ∀ s : State,
    (s.waiting = none → s.pins.rst = false →
      (∀ i, decode (glitchSelect s) (fetchWord s) = .ok i →
        step s = thenNext (exec i s) hostTurn ∧ (s.script = [] → step s = exec i s)) ∧
      (∀ e, decode (glitchSelect s) (fetchWord s) = .error e → step s = .refused (.reservedEncoding e)) ∧
      (PortsIdle s → ∀ i : Instr, i.phase? = some s.ph → (s.ph = .glitch → glitchSelect s = i.glitchSel) →
        step s = thenNext (exec i s) hostTurn)) ∧
    (∀ p, s.waiting = some p → s.pins.rst = false →
      step s = thenNext (resume p s) hostTurn ∧ (s.script = [] → step s = resume p s))

/-- Every step with `rst` high, from any state, gives every register of the core the value 70_reset_and_hazards.md lists,
whatever the core was doing and whatever else is asked of it, and then the outside, which may lower `rst`, has its turn
(spec's decisions D27, D28; log 4). The cursor, the sample space and the sink stay as they are; but an operation in progress
whose command is answered in this step completes, and the reset replaces its result, so that its cursor moves and records
stand. One that still waits is abandoned: asserting `rst` stops a blocked core at once (70_reset_and_hazards.md,
Cancellation latency; log 10). Nothing is said of `cfg_chan`, which is unspecified. -/
def Obligations.RstPinResetsTheCore : Prop :=
  ∀ s : State, s.pins.rst = true →
    ∃ t, step s = hostTurn t ∧ (s.script = [] → step s = .next t) ∧
      t.ph = .idle ∧ t.st = .unknown ∧ t.haltReason = .none ∧
      t.rise = 0 ∧ t.fall = 0 ∧ t.highW = 0 ∧ t.lowW = 0 ∧
      t.layer = .unknown ∧ t.bits = 0 ∧ t.acc = 0 ∧ t.fieldStart = 0 ∧ t.bit = false ∧
      t.overdrive = false ∧ t.defer = false ∧ t.rstWarn = false ∧
      t.cfgRate = 0 ∧ t.cfgForce = false ∧ t.thr = Thresholds.zero ∧
      t.waiting = none ∧ t.mem = s.mem ∧ t.ended = s.ended ∧ t.params = s.params ∧ t.pins = s.pins ∧
      t.script = s.script ∧
      (s.waiting = none → t.pos = s.pos ∧ t.sink = s.sink) ∧
      (∀ p u, s.waiting = some p → resume p s = .next u → t.pos = u.pos ∧ t.sink = u.sink) ∧
      (∀ p, s.waiting = some p → (∀ u, resume p s ≠ .next u) → t.pos = s.pos ∧ t.sink = s.sink)

/-- The state after reset: every register of the core has the value of the reset column of 10_state.md, with no record sent,
no operation in progress and no word at a port, and the invariants of a run hold. The values are the spec's decision D27;
`cfg_chan` is unspecified and left out; that no record, no wait and no port word is there, that the stream has not been
ended, and the reset waveform, one High sample with the cursor on it, are the model's choices (log 1, log 5, log 10,
log 28). -/
def Obligations.ResetMeetsTheInvariants : Prop :=
  RunInv State.reset ∧ SinkFits State.reset ∧
  State.reset.ph = .idle ∧ State.reset.st = .unknown ∧ State.reset.haltReason = .none ∧
  State.reset.rise = 0 ∧ State.reset.fall = 0 ∧ State.reset.highW = 0 ∧ State.reset.lowW = 0 ∧
  State.reset.layer = .unknown ∧ State.reset.bits = 0 ∧ State.reset.acc = 0 ∧ State.reset.fieldStart = 0 ∧
  State.reset.bit = false ∧ State.reset.overdrive = false ∧ State.reset.defer = false ∧ State.reset.rstWarn = false ∧
  State.reset.cfgRate = 0 ∧ State.reset.cfgForce = false ∧
  State.reset.thr = { tFloor := 0, tChk := 0, tSp := 0, tStdMin := 0, tStdNom := 0, tOvdMin := 0, tOvdNom := 0,
                      tOvdMax := 0, tGap := 0 } ∧
  State.reset.sink = [] ∧ State.reset.waiting = none ∧ State.reset.ended = false ∧ PortsIdle State.reset

/-! ## Whole-machine rules -/

/-- Every step, from any state, keeps the waveform in canonical form and the cursor on one of its samples
(20_memory.md R41, R42): the operations of the core, the commands and records at the ports, hardware reset, and what the
outside does between operations. -/
def Obligations.StepKeepsMemoryInvariant : Prop :=
  ∀ s t : State, MemoryInv s → step s = .next t → MemoryInv t

/-- Every step keeps the invariant of a run (10_state.md R16, R17, R24, R30; 41_acquire_glitch.md R95): the bit counter below
the layer's width but between ASM and EMIT, no accumulator bit at or above it, the transient loop states only where they
may be, `halt_reason` None exactly outside HALT, the cursor on the falling edge of the measured pulse with `rise` the next
edge and `low_w` their distance, the thresholds those of the latched rate; and while an operation waits, on a live stream
only, the cursor and the registers it has written so far stand where 41_acquire_glitch.md R90, R92 and R93 put them. -/
def Obligations.StepKeepsRunInvariant : Prop :=
  ∀ s t : State, RunInv s → step s = .next t → RunInv t

/-- Every frame that reaches the sink fits its kind (20_memory.md R49). -/
def Obligations.StepKeepsFramesFitting : Prop :=
  ∀ s t : State, RunInv s → SinkFits s → step s = .next t → SinkFits t

/-- Malformed input never stops a run (60_exceptions.md R155): whatever the waveform and the registers a run can have,
the rules give a next step, until HALT, which steps to itself. On a live stream there is one exception, an advance past
index 2^64, which 93_implementation_defined.md U9 puts outside the model and the model refuses (log 12). A live stream
that the host has ended counts as finite here (log 28). -/
def Obligations.MalformedInputNeverStopsARun : Prop :=
  ∀ s : State, RunInv s → admissible s.params = true → s.script = [] →
    (s.source = .finite → ∃ t, step s = .next t) ∧
    (s.source = .live → (∃ t, step s = .next t) ∨
      (step s = .refused .indexBeyond64 ∧ 2 ^ 64 ≤ s.pos.toNat + 2 ^ 32))

/-- A run on a finite stream, or on a live one that the host has ended, ends (45_decode_loop.md, Termination; derived there):
from any state of a run, an operation in progress or not, the core is in HALT after a number of steps bounded by the samples
ahead of the cursor. And the host can end a live stream in the course of any step, which is one of the two ways to a bounded
stop that 70_reset_and_hazards.md (Cancellation latency) asks for; that an ended stream answers as a finite one is the
model's reading (log 28). -/
def Obligations.FiniteRunReachesHalt : Prop :=
  (∀ s : State, RunInv s → admissible s.params = true → s.source = .finite → s.script = [] →
    s.pins.rst = false → s.ph ≠ .idle →
    ∃ n t, n ≤ 16 * (s.mem.stop - s.pos.toNat) + 16 ∧ Host.Core.run Sys2Proof.core n s = .next t ∧ t.ph = .halt) ∧
  (∀ s t : State, s.script = [{ pins := none, capture := none, deliver := none, ends := true }] →
    step s = .next t → t.source = .finite ∧ t.script = [])

/-- The transitions of the phase register are those of the table of 45_decode_loop.md R130 and no other; only a wait on
a live stream, one that the host has not ended (log 28), leaves the phase as it is (20_memory.md R47). The phases are
the spec's decision D2. -/
def Obligations.PhaseTransitionsAreTheTables : Prop :=
  ∀ s t : State, RunInv s → s.pins.rst = false → step s = .next t →
    t.ph ∈ nextPhases s.ph ∨ (s.source = .live ∧ t.waiting ≠ none ∧ t.ph = s.ph)

/-- Hardware reset is the only way into IDLE and the only way out of HALT (70_reset_and_hazards.md, Reset; spec's decision
D28), from every state in which an operation in progress stands in its own phase (WaitInv, a part of the run invariant that
every step keeps). -/
def Obligations.OnlyRstEntersIdleOrLeavesHalt : Prop :=
  ∀ s t : State, WaitInv s → step s = .next t → s.pins.rst = false →
    (t.ph = .idle → s.ph = .idle) ∧ (s.ph = .halt → t.ph = .halt)

/-- The ways a run ends (45_decode_loop.md, HALT; 60_exceptions.md R150): a run enters HALT only from START with
ConfigurationError, from CANCELCHK with Cancelled and `cancel` high, or from MEASURE, GLITCH, CHKPT or SPOINT with
StreamExhausted on a stream that can end (log 28). -/
def Obligations.HaltHasThreeWaysIn : Prop :=
  ∀ s t : State, RunInv s → s.pins.rst = false → step s = .next t → s.ph ≠ .halt → t.ph = .halt →
    (s.ph = .start ∧ t.haltReason = .configurationError ∧ configurationBad s = true) ∨
    (s.ph = .cancelchk ∧ t.haltReason = .cancelled ∧ s.pins.cancel = true) ∨
    (s.ph ∈ [Phase.measure, .glitch, .chkpt, .spoint] ∧ t.haltReason = .streamExhausted ∧
      s.source = .finite)

/-- HALT is absorbing (45_decode_loop.md, HALT; spec's decision D28): without `rst` a halted core changes nothing. -/
def Obligations.HaltIsAbsorbing : Prop :=
  ∀ s : State, exec .halt s = .next { s with ph := .halt } ∧
    (s.ph = .halt → s.pins.rst = false → s.waiting = none → PortsIdle s → s.script = [] →
      exec .halt s = .next s ∧ step s = .next s)

/-- The cursor never moves back during a run (20_memory.md R42, 10_state.md R30(b)). -/
def Obligations.CursorNeverMovesBack : Prop :=
  ∀ s t : State, MemoryInv s → s.pins.rst = false → step s = .next t → t.busy = true → s.pos ≤ t.pos

/-- Samples, once there, do not change during a run (70_reset_and_hazards.md R182; 20_memory.md R40: read-only). -/
def Obligations.SamplesNeverChangeDuringARun : Prop :=
  ∀ s t : State, MemoryInv s → s.pins.rst = false → step s = .next t → t.busy = true →
    ∀ a, s.mem.holds a = true → t.mem.holds a = true ∧ t.mem.level a = s.mem.level a

/-- The sink stream is append-only, and nothing flows from it back to the core (20_memory.md R48, R57): an operation, and
every step, that answers a next state appends the same records, and does the same otherwise, whatever the stream held
before. -/
def Obligations.SinkIsAppendOnlyAndNeverRead : Prop :=
  (∀ (i : Instr) (s t : State), exec i s = .next t →
    ∃ rs, t.sink = s.sink ++ rs ∧
      ∀ old : List Record, exec i { s with sink := old } = .next { t with sink := old ++ rs }) ∧
  (∀ s t : State, step s = .next t →
    ∃ rs, t.sink = s.sink ++ rs ∧
      ∀ old : List Record, step { s with sink := old } = .next { t with sink := old ++ rs })

/-- Which operations may send which records (20_memory.md R49 to R52), kind by kind: a Restart frame only RSTACC, a Data,
Command or CRC frame only EMIT, a Commit only GAPFLUSH and RSTACC, an Invalid marker only GF_HIGH, GF_LOW and CHKPT, a Start
or DownArrow marker only GAPCHK, a Zero or One marker only SPOINT, a Progress record only PROGRESS; or the record itself at
the sink's port. For EMIT in a layer, in which alone a run executes it (the invariant ControlInv; log 9). What is left of an
operation that waited sends only what one of the operations that can wait there may send. -/
def Obligations.RecordsComeFromTheirEmitters : Prop :=
  (∀ (i : Instr) (s t : State) (rs : List Record), (i = .emit → s.layer ≠ .unknown) →
    exec i s = .next t → t.sink = s.sink ++ rs → ∀ r ∈ rs, i ∈ r.emitters) ∧
  (∀ (p : WaitPoint) (s t : State) (rs : List Record),
    resume p s = .next t → t.sink = s.sink ++ rs → ∀ r ∈ rs, ∃ i ∈ p.operations, i ∈ r.emitters)

/-- The host's pins are sampled only where 10_state.md R26 says: the configuration pins by START, `start` by IDLE, `cancel`
by CANCELCHK; every other operation, and what is left of one that waited, does the same whatever they are. -/
def Obligations.PinsAreSampledOnlyWhereNamed : Prop :=
  (∀ (i : Instr) (s t : State) (p : Pins), exec i s = .next t →
    (i = .start → p.sampleRateHz = s.pins.sampleRateHz ∧ p.forceOverdrive = s.pins.forceOverdrive ∧
      p.channel = s.pins.channel ∧ p.channelValid = s.pins.channelValid) →
    (i = .idle → p.start = s.pins.start) →
    (i = .cancelchk → p.cancel = s.pins.cancel) →
    exec i { s with pins := p } = .next { t with pins := p }) ∧
  (∀ (w : WaitPoint) (s t : State) (p : Pins), resume w s = .next t →
    resume w { s with pins := p } = .next { t with pins := p })

/-- The configuration latches and the thresholds are written by START alone (10_state.md R27, R28), and the parameter
record by no operation. -/
def Obligations.ConfigurationIsFrozenAfterStart : Prop :=
  (∀ (i : Instr) (s t : State), exec i s = .next t →
    t.params = s.params ∧
      (i ≠ .start → t.thr = s.thr ∧ t.cfgRate = s.cfgRate ∧ t.cfgForce = s.cfgForce ∧ t.cfgChan = s.cfgChan)) ∧
  (∀ (p : WaitPoint) (s t : State), resume p s = .next t →
    t.params = s.params ∧ t.thr = s.thr ∧ t.cfgRate = s.cfgRate ∧ t.cfgForce = s.cfgForce ∧ t.cfgChan = s.cfgChan)

/-- The mode update (42_reset_detector.md R104): but for START, only RSTACC writes `overdrive`; it clears it for a low pulse
above the standard inside-margin threshold, which is always accepted as a standard reset, and leaves it otherwise; nothing
sets it; the latched force bit is not affected, and keeps the effective bit 1. -/
def Obligations.OverdriveIsOnlyClearedAfterStart : Prop :=
  (∀ (i : Instr) (s t : State), exec i s = .next t → i ≠ .start →
    (t.overdrive ≠ s.overdrive → i = .rstacc ∧ t.overdrive = false ∧ s.thr.tStdMin < s.lowW) ∧
    (i = .rstacc → s.thr.tStdMin < s.lowW → t.overdrive = false) ∧
    (s.thr.tStdMin < s.lowW → classify s.thr s.lowW s.odEff = .resetStandard) ∧
    t.cfgForce = s.cfgForce ∧ (s.cfgForce = true → t.odEff = true)) ∧
  (∀ (p : WaitPoint) (s t : State), resume p s = .next t → t.overdrive = s.overdrive ∧ t.cfgForce = s.cfgForce)

/-- With `OVERDRIVE_INIT = FOLLOW_FORCE` the effective overdrive bit is the latched force bit in every reachable state
(10_state.md R20, derived there): the property every step keeps, and it holds after reset. -/
def Obligations.FollowForceFixesTheMode : Prop :=
  (∀ s t : State, s.params.overdriveInit = .followForce → (s.overdrive = true → s.cfgForce = true) →
    step s = .next t →
      (t.overdrive = true → t.cfgForce = true) ∧ t.odEff = t.cfgForce) ∧
  (State.reset.overdrive = true → State.reset.cfgForce = true)

/-! ## TimingModel and ResetDetector, pure -/

/-- `usToSamples` (40_timing_model.md, usToSamples; the bounds are derived there): the product before the truncating
quotient; within the admitted ranges the product is below 2^64, so a threshold register holds the result exactly. The spec
adds that the result is below 2^44; its own vector V6 shows a result above that, and the least power of two is 2^45
(log 27). -/
def Obligations.UsToSamplesFitsItsRegister : Prop :=
  (∀ (rate : BitVec 32) (us : Nat), us < 2 ^ 32 →
    rate.toNat * us < 2 ^ 64 ∧ usToSamples rate.toNat us < 2 ^ 45 ∧
      (usToIndex rate us).toNat = rate.toNat * us / 1000000) ∧
  usToSamples (2 ^ 32 - 1) (2 ^ 32 - 1) = 18446744065119 ∧ (2 : Nat) ^ 44 < 18446744065119

/-- The conversion round trip never gains (40_timing_model.md R86). -/
def Obligations.ConversionRoundTripNeverGains : Prop :=
  ∀ rate samples : Nat, 0 < rate → usToSamples rate (samplesToUs rate samples) ≤ samples

/-- Under an admissible record the thresholds are ordered as far as 40_timing_model.md R84 says, and the two advances fit
the 32 bits of ADV_BY and are what R84 and R70 of 30_encoding.md compute, untruncated (the formulas are the spec's decision
D11). -/
def Obligations.AdmissibleThresholdsAreOrdered : Prop :=
  ∀ (p : Params) (rate : BitVec 32) (s : State), admissible p = true → s.thr = thresholds p rate →
    s.thr.tStdMin ≤ s.thr.tStdNom ∧ s.thr.tOvdMin ≤ s.thr.tOvdNom ∧ s.thr.tChk ≤ s.thr.tSp ∧
    s.thr.tSp.toNat < 2 ^ 32 ∧
    (checkpointAdvance s).toNat = rate.toNat * p.sampleCheckpointUs / 1000000 ∧
    (samplePointAdvance s).toNat =
      rate.toNat * p.samplePointUs / 1000000 - rate.toNat * p.sampleCheckpointUs / 1000000

/-- `classify` (42_reset_detector.md, the class and the warning; spec's decisions D12, D13), as an equivalence for each
verdict, all comparisons strict. -/
def Obligations.ClassifyIsTheDecisionTable : Prop :=
  ∀ (t : Thresholds) (w : Index) (od : Bool),
    (classify t w od = .resetStandard ↔ t.tStdMin < w) ∧
    (classify t w od = .resetOverdrive ↔ w ≤ t.tStdMin ∧ od = true ∧ t.tOvdMin < w ∧ w < t.tOvdMax) ∧
    (classify t w od = .notReset ↔ w ≤ t.tStdMin ∧ ¬ (od = true ∧ t.tOvdMin < w ∧ w < t.tOvdMax)) ∧
    (resetWarning t w od = true ↔ t.tStdMin < w ∧ w < t.tStdNom)

/-! ## The controller's operations -/

/-- IDLE (45_decode_loop.md R132): the next phase follows the pin `start`; no other register changes. -/
def Obligations.IdleFollowsTheStartPin : Prop :=
  ∀ s : State,
    (s.pins.start = true → exec .idle s = .next { s with ph := .start }) ∧
    (s.pins.start = false → exec .idle s = .next { s with ph := .idle })

/-- START with a good configuration (45_decode_loop.md, START; spec's decisions D6, D8, D17, D27): the latches, the nine
thresholds, every run register, `rise` from the cursor; nothing else changes and no record is sent. -/
def Obligations.StartBuildsTheRunState : Prop :=
  ∀ s : State, admissible s.params = true → s.mem.holds s.pos.toNat = true →
    s.params.minSampleRateHz ≤ s.pins.sampleRateHz.toNat → s.pins.channelValid = true →
    ∃ r, exec .start s = .next
      { s with
        cfgRate := s.pins.sampleRateHz, cfgForce := s.pins.forceOverdrive, cfgChan := s.pins.channel
        thr := thresholds s.params s.pins.sampleRateHz
        st := .unknown, layer := .unknown, bits := 0, acc := 0, fieldStart := 0, bit := false
        rstWarn := false, defer := false
        overdrive := (match s.params.overdriveInit with
          | .followForce => s.pins.forceOverdrive
          | .constant b => b)
        fall := 0, highW := 0, lowW := 0, rise := s.pos, haltReason := .none, ph := .measure, curRsp := r }

/-- START with a rate below the floor or no channel takes ConfigurationError (60_exceptions.md, ConfigurationError; spec's
decision D7): `halt_reason` and `ph` are written and nothing else, whatever the stream. -/
def Obligations.StartRejectsABadConfiguration : Prop :=
  ∀ s : State, admissible s.params = true →
    (s.pins.sampleRateHz.toNat < s.params.minSampleRateHz ∨ s.pins.channelValid = false) →
    exec .start s = .next { s with haltReason := .configurationError, ph := .halt }

/-- START refuses a run whose parameter record is not admissible, and only that (00_scope.md R6 (a) to (d); log 14). -/
def Obligations.StartRefusesAnInadmissibleRecord : Prop :=
  ∀ s : State, s.mem.holds s.pos.toNat = true →
    (exec .start s = .refused .inadmissibleParameters ↔
      ¬ (s.params.resetMarginInUs ≤ s.params.resetPulseUs ∧
        s.params.overdriveMarginInUs ≤ s.params.overdriveResetPulseUs ∧
        s.params.sampleCheckpointUs ≤ s.params.samplePointUs ∧ s.params.samplePointUs ≤ 1000000 ∧
        1 ≤ s.params.minSampleRateHz ∧ s.params.resetPulseUs < 2 ^ 32 ∧ s.params.overdriveResetPulseUs < 2 ^ 32 ∧
        s.params.overdriveMaxResetUs + s.params.overdriveMarginOutUs < 2 ^ 32 ∧ s.params.minPulseUs < 2 ^ 32 ∧
        s.params.longGapUs < 2 ^ 32))

/-- MEASURE (41_acquire_glitch.md, MEASURE; spec's decision D17): from a High cursor the high pulse runs from `rise` to the
next falling edge, from a Low one the cursor first leaves the low period; the low pulse runs to the edge after, which is
only peeked, so the cursor ends on the falling edge. Nothing else changes. -/
def Obligations.MeasureTakesAPulsePair : Prop :=
  ∀ (s : State) (up down e : Index), MemoryInv s →
    (s.level = .high → s.mem.NextEdge s.pos.toNat down.toNat → s.mem.NextEdge down.toNat e.toNat →
      ∃ r, exec .measure s = .next
        { s with pos := down, fall := down, highW := down - s.rise, rise := e, lowW := e - down, ph := .glitch,
                 curRsp := r }) ∧
    (s.level = .low → s.mem.NextEdge s.pos.toNat up.toNat → s.mem.NextEdge up.toNat down.toNat →
      s.mem.NextEdge down.toNat e.toNat →
      ∃ r, exec .measure s = .next
        { s with pos := down, fall := down, highW := down - up, rise := e, lowW := e - down, ph := .glitch,
                 curRsp := r })

/-- StreamExhausted inside MEASURE where the stream ends (60_exceptions.md, StreamExhausted; spec's decision D5), at
each of its cursor commands, from a High and from a Low cursor: the writes before the failing command stand, the ones
after it are not made, nothing is emitted, the cursor stays where the last command that completed left it. It speaks of
every stream that can end: a finite one, of which the spec's rule speaks, and a live one that the host has ended, which
is the model's reading (log 28). -/
def Obligations.MeasureStopsWhereTheStreamEnds : Prop :=
  ∀ (s : State) (up down : Index), MemoryInv s → s.source = .finite →
    (s.mem.NoEdge s.pos.toNat →
      ∃ r, exec .measure s = .next { s with haltReason := .streamExhausted, ph := .halt, curRsp := r }) ∧
    (s.level = .high → s.mem.NextEdge s.pos.toNat down.toNat → s.mem.NoEdge down.toNat →
      ∃ r, exec .measure s = .next
        { s with pos := down, fall := down, highW := down - s.rise, haltReason := .streamExhausted, ph := .halt,
                 curRsp := r }) ∧
    (s.level = .low → s.mem.NextEdge s.pos.toNat up.toNat → s.mem.NoEdge up.toNat →
      ∃ r, exec .measure s = .next
        { s with pos := up, rise := up, haltReason := .streamExhausted, ph := .halt, curRsp := r }) ∧
    (s.level = .low → s.mem.NextEdge s.pos.toNat up.toNat → s.mem.NextEdge up.toNat down.toNat →
      s.mem.NoEdge down.toNat →
      ∃ r, exec .measure s = .next
        { s with pos := down, rise := up, fall := down, highW := down - up, haltReason := .streamExhausted, ph := .halt,
                 curRsp := r })

/-- On a live stream an operation whose command has to wait stops there (20_memory.md R47, R48; 60_exceptions.md R167): the
writes and records before the command stand, the cursor stays where the last command left it, the phase stays, and
`waiting` says where the operation stands; at each cursor command of MEASURE, GF_HIGH, GF_LOW, CHKPT, SPOINT and RSTACC. A
command posted at the port by itself waits there. And the wait makes no difference in the end: what is left of the operation,
once samples have been delivered or the host has ended the stream (log 28), does what the whole operation does where that
was so from the beginning. -/
def Obligations.LiveStreamMakesTheCoreWait : Prop :=
  ∀ s : State, MemoryInv s → s.source = .live →
    (s.mem.NoEdge s.pos.toNat →
      (s.level = .low → ∃ r, exec .measure s = .next { s with waiting := some .risingEdge, curRsp := r }) ∧
      (s.level = .high → ∃ r, exec .measure s = .next { s with waiting := some .fallingEdge, curRsp := r }) ∧
      exec .gfHigh s = .next { s with sink := s.sink ++ [.marker s.fall .invalid], waiting := some .risingEdge } ∧
      exec .gfLow s = .next { s with sink := s.sink ++ [.marker s.fall .invalid], waiting := some .spikeEnd } ∧
      exec .rstacc s = .next
        { s with overdrive := (if s.thr.tStdMin < s.lowW then false else s.overdrive), st := .resetObserved
                 sink := s.sink ++ [.commit, .frame s.fall s.rise .restart 0 s.rstWarn]
                 waiting := some .resetEnd } ∧
      exec .advEdge s = .next s ∧ exec .peekEdge s = .next s) ∧
    (∀ e : Index, s.mem.NextEdge s.pos.toNat e.toNat → s.mem.NoEdge e.toNat →
      (s.level = .low → ∃ r, exec .measure s = .next
        { s with pos := e, rise := e, waiting := some .fallingEdge, curRsp := r }) ∧
      (s.level = .high → ∃ r, exec .measure s = .next
        { s with pos := e, fall := e, highW := e - s.rise, waiting := some .lowPulseEnd, curRsp := r }) ∧
      (∃ r, exec .gfHigh s = .next
        { s with sink := s.sink ++ [.marker s.fall .invalid], pos := e, rise := e, waiting := some .fallingEdge,
                 curRsp := r }) ∧
      (∃ r, exec .gfLow s = .next
        { s with sink := s.sink ++ [.marker s.fall .invalid], pos := e, waiting := some .mergedPulseEnd, curRsp := r })) ∧
    (∀ up down : Index, s.mem.NextEdge s.pos.toNat up.toNat → s.mem.NextEdge up.toNat down.toNat →
      s.mem.NoEdge down.toNat →
      (s.level = .low → ∃ r, exec .measure s = .next
        { s with pos := down, rise := up, fall := down, highW := down - up, waiting := some .lowPulseEnd,
                 curRsp := r }) ∧
      (∃ r, exec .gfHigh s = .next
        { s with sink := s.sink ++ [.marker s.fall .invalid], pos := down, rise := up, fall := down, highW := down - up,
                 waiting := some .lowPulseEnd, curRsp := r }) ∧
      (∃ r, exec .gfLow s = .next
        { s with sink := s.sink ++ [.marker s.fall .invalid], pos := down, fall := down,
                 highW := s.highW + (down - s.fall), waiting := some .lowPulseEnd, curRsp := r })) ∧
    (∀ n : BitVec 32, s.mem.stop ≤ s.pos.toNat + n.toNat → s.pos.toNat + n.toNat < 2 ^ 64 →
      exec (.advBy n) s = .next s ∧
        (checkpointAdvance s = n → exec .chkpt s = .next { s with waiting := some .checkpoint }) ∧
        (samplePointAdvance s = n → exec .spoint s = .next { s with waiting := some .samplePoint })) ∧
    (∀ (i : Instr) (t : State) (p : WaitPoint) (edges : List Nat) (stop : Nat) (e : Bool), s.waiting = none →
      exec i s = .next t → t.waiting = some p → s.mem.extends edges stop = true →
      i ∈ p.operations ∧
        resume p { t with mem := s.mem.extend edges stop, ended := e } =
          exec i { s with mem := s.mem.extend edges stop, ended := e })

/-- Which operation phase GLITCH executes (41_acquire_glitch.md, GLITCH phase dispatch; spec's decision D18): strict
comparisons, the high pulse first, none while `defer` is set. -/
def Obligations.GlitchPhaseSelection : Prop :=
  ∀ s : State,
    (glitchSelect s = .high ↔ s.defer = false ∧ s.highW < s.thr.tFloor) ∧
    (glitchSelect s = .low ↔ s.defer = false ∧ s.thr.tFloor ≤ s.highW ∧ s.lowW < s.thr.tFloor) ∧
    (glitchSelect s = .pass ↔ s.defer = true ∨ (s.thr.tFloor ≤ s.highW ∧ s.thr.tFloor ≤ s.lowW))

/-- GF_HIGH (41_acquire_glitch.md, GF_HIGH; spec's decision D18): one Invalid marker at the old `fall`, the cursor two edges
on, the pair measured anew from there. Nothing else changes. -/
def Obligations.GfHighDiscardsTheSpike : Prop :=
  ∀ (s : State) (up down e : Index), MemoryInv s → s.mem.NextEdge s.pos.toNat up.toNat →
    s.mem.NextEdge up.toNat down.toNat → s.mem.NextEdge down.toNat e.toNat →
    ∃ r, exec .gfHigh s = .next
      { s with sink := s.sink ++ [.marker s.fall .invalid], pos := down, fall := down, highW := down - up, rise := e,
               lowW := e - down, ph := .glitch, curRsp := r }

/-- GF_LOW (41_acquire_glitch.md, GF_LOW; spec's decision D18): one Invalid marker at the old `fall`, the cursor two edges
on, the high width grown by the spike and the high pulse after it, the low pulse measured anew; `rise` is the edge that ends
it. Nothing else changes. -/
def Obligations.GfLowMergesTheHighPulse : Prop :=
  ∀ (s : State) (up down e : Index), MemoryInv s → s.mem.NextEdge s.pos.toNat up.toNat →
    s.mem.NextEdge up.toNat down.toNat → s.mem.NextEdge down.toNat e.toNat →
    ∃ r, exec .gfLow s = .next
      { s with sink := s.sink ++ [.marker s.fall .invalid], pos := down, fall := down,
               highW := s.highW + (down - s.fall), rise := e, lowW := e - down, ph := .glitch, curRsp := r }

/-- StreamExhausted inside GF_HIGH and GF_LOW where the stream ends (60_exceptions.md, StreamExhausted; spec's decision
D5), at each of their three cursor commands: the marker already emitted stays, the writes before the failing command
stand, and the cursor stays where the command before left it. It speaks of every stream that can end: a finite one, of
which the spec's rule speaks, and a live one that the host has ended, which is the model's reading (log 28). -/
def Obligations.GlitchFilterStopsWhereTheStreamEnds : Prop :=
  ∀ (s : State) (up down : Index), MemoryInv s → s.source = .finite →
    (s.mem.NoEdge s.pos.toNat →
      (∃ r, exec .gfHigh s = .next
        { s with sink := s.sink ++ [.marker s.fall .invalid], haltReason := .streamExhausted, ph := .halt, curRsp := r }) ∧
      (∃ r, exec .gfLow s = .next
        { s with sink := s.sink ++ [.marker s.fall .invalid], haltReason := .streamExhausted, ph := .halt, curRsp := r })) ∧
    (s.mem.NextEdge s.pos.toNat up.toNat → s.mem.NoEdge up.toNat →
      (∃ r, exec .gfHigh s = .next
        { s with sink := s.sink ++ [.marker s.fall .invalid], pos := up, rise := up, haltReason := .streamExhausted,
                 ph := .halt, curRsp := r }) ∧
      (∃ r, exec .gfLow s = .next
        { s with sink := s.sink ++ [.marker s.fall .invalid], pos := up, haltReason := .streamExhausted, ph := .halt,
                 curRsp := r })) ∧
    (s.mem.NextEdge s.pos.toNat up.toNat → s.mem.NextEdge up.toNat down.toNat → s.mem.NoEdge down.toNat →
      (∃ r, exec .gfHigh s = .next
        { s with sink := s.sink ++ [.marker s.fall .invalid], pos := down, rise := up, fall := down, highW := down - up,
                 haltReason := .streamExhausted, ph := .halt, curRsp := r }) ∧
      (∃ r, exec .gfLow s = .next
        { s with sink := s.sink ++ [.marker s.fall .invalid], pos := down, fall := down,
                 highW := s.highW + (down - s.fall), haltReason := .streamExhausted, ph := .halt, curRsp := r }))

/-- GF_PASS (41_acquire_glitch.md, GF_PASS; spec's decision D16): `defer` is cleared, and the gap test runs exactly while
`st` is Unknown. Nothing else changes. -/
def Obligations.GfPassHandsThePairOn : Prop :=
  ∀ s : State,
    (s.st = .unknown → exec .gfPass s = .next { s with defer := false, ph := .gapchk }) ∧
    (s.st ≠ .unknown → exec .gfPass s = .next { s with defer := false, ph := .rstchk })

/-- GAPCHK (45_decode_loop.md, GAPCHK; spec's decisions D10, D19): a high pulse above the long-gap threshold, strictly,
gives a Start marker and NewTransactionGap; any other a DownArrow marker and `st` as it was. Both at `fall`. -/
def Obligations.GapchkTestsTheHighPulse : Prop :=
  ∀ s : State,
    (s.thr.tGap < s.highW → exec .gapchk s = .next
      { s with sink := s.sink ++ [.marker s.fall .start], st := .newTransactionGap, ph := .gapflush }) ∧
    (s.highW ≤ s.thr.tGap → exec .gapchk s = .next { s with sink := s.sink ++ [.marker s.fall .downArrow], ph := .rstchk })

/-- GAPFLUSH (45_decode_loop.md, GAPFLUSH; spec's decision D33): one Commit, and decoding begins at Data-layer bit 0. -/
def Obligations.GapflushOpensATransaction : Prop :=
  ∀ s : State, exec .gapflush s = .next
    { s with sink := s.sink ++ [.commit], layer := .data, bits := 0, acc := 0, st := .decoding, ph := .rstchk }

/-- RSTCHK (42_reset_detector.md R103): a pulse that is no reset goes to the BitSampler and writes nothing, a reset leaves
its warning verdict in `rst_warn`. Classified with the effective overdrive bit. -/
def Obligations.RstchkClassifiesTheLowPulse : Prop :=
  ∀ s : State,
    (classify s.thr s.lowW (s.cfgForce || s.overdrive) = .notReset → exec .rstchk s = .next { s with ph := .chkpt }) ∧
    (classify s.thr s.lowW (s.cfgForce || s.overdrive) ≠ .notReset → exec .rstchk s = .next
      { s with rstWarn := resetWarning s.thr s.lowW (s.cfgForce || s.overdrive), ph := .rstacc })

/-- RSTACC (42_reset_detector.md, RSTACC; spec's decisions D14, D15): the mode update of R104, a Commit before the Restart
frame that spans `[fall, rise]` with value 0 and the warning, the cursor on the next edge. Nothing else changes. -/
def Obligations.RstaccAcceptsTheReset : Prop :=
  ∀ (s : State) (e : Index), MemoryInv s → s.mem.NextEdge s.pos.toNat e.toNat →
    ∃ r, exec .rstacc s = .next
      { s with overdrive := (if s.thr.tStdMin < s.lowW then false else s.overdrive), st := .resetObserved
               sink := s.sink ++ [.commit, .frame s.fall s.rise .restart 0 s.rstWarn], pos := e, ph := .rstre
               curRsp := r }

/-- RSTRE (42_reset_detector.md R106): decoding is entered again at Data-layer bit 0, and the next pair is exempt from the
filter; no record, no cursor command, no other register. -/
def Obligations.RstreReentersDecoding : Prop :=
  ∀ s : State, exec .rstre s = .next
    { s with layer := .data, bits := 0, acc := 0, defer := true, st := .decoding, ph := .progress }

/-- Reset pre-emption (42_reset_detector.md, Reset pre-emption; derived there): in any state of a run, with any layer and
any field in progress, a low pulse that `classify` accepts leads in three steps to layer Data, bit 0, an empty accumulator
and Decoding, with one Commit and one Restart frame emitted and no frame for the field in progress. -/
def Obligations.ResetPreemptsEverything : Prop :=
  ∀ s : State, RunInv s → s.ph = .rstchk → s.pins.rst = false → s.script = [] →
    classify s.thr s.lowW (s.cfgForce || s.overdrive) ≠ .notReset →
    ∃ t, Host.Core.run Sys2Proof.core 3 s = .next t ∧
      t.layer = .data ∧ t.bits = 0 ∧ t.acc = 0 ∧ t.st = .decoding ∧ t.defer = true ∧ t.ph = .progress ∧
      t.pos = s.rise ∧
      t.sink = s.sink ++ [.commit, .frame s.fall s.rise .restart 0
        (resetWarning s.thr s.lowW (s.cfgForce || s.overdrive))]

/-- CHKPT (43_bit_sampler.md R111, R115; the marker's place is the spec's decision D21): the level of the one sample `T_CHK`
after the cursor decides. High: one Invalid marker there and no bit, no counter, no layer, no field start written. Low: on
to SPOINT. -/
def Obligations.ChkptLooksAtTheCheckpoint : Prop :=
  ∀ s : State, MemoryInv s → s.pos.toNat + s.thr.tChk.toNat < s.mem.stop → s.thr.tChk.toNat < 2 ^ 32 →
    (s.mem.level (s.pos.toNat + s.thr.tChk.toNat) = .high →
      ∃ r, exec .chkpt s = .next
        { s with pos := s.pos + s.thr.tChk, sink := s.sink ++ [.marker (s.pos + s.thr.tChk) .invalid], ph := .progress
                 curRsp := r }) ∧
    (s.mem.level (s.pos.toNat + s.thr.tChk.toNat) = .low →
      ∃ r, exec .chkpt s = .next { s with pos := s.pos + s.thr.tChk, ph := .spoint, curRsp := r })

/-- SPOINT (43_bit_sampler.md R112; the offset from the falling edge is the spec's decision D21): the level `T_SP - T_CHK`
further on is the bit, with the marker One or Zero there. -/
def Obligations.SpointReadsTheBit : Prop :=
  ∀ s : State, MemoryInv s → s.thr.tChk ≤ s.thr.tSp → s.thr.tSp.toNat < 2 ^ 32 →
    s.pos.toNat + (s.thr.tSp.toNat - s.thr.tChk.toNat) < s.mem.stop →
    (s.mem.level (s.pos.toNat + (s.thr.tSp.toNat - s.thr.tChk.toNat)) = .high →
      ∃ r, exec .spoint s = .next
        { s with pos := s.pos + (s.thr.tSp - s.thr.tChk), bit := true
                 sink := s.sink ++ [.marker (s.pos + (s.thr.tSp - s.thr.tChk)) .one], ph := .asm, curRsp := r }) ∧
    (s.mem.level (s.pos.toNat + (s.thr.tSp.toNat - s.thr.tChk.toNat)) = .low →
      ∃ r, exec .spoint s = .next
        { s with pos := s.pos + (s.thr.tSp - s.thr.tChk), bit := false
                 sink := s.sink ++ [.marker (s.pos + (s.thr.tSp - s.thr.tChk)) .zero], ph := .asm, curRsp := r })

/-- CHKPT and SPOINT beyond the end of a stream (60_exceptions.md, StreamExhausted; spec's decision D5): no marker, no
bit, the cursor stays. It speaks of every stream that can end: a finite one, of which the spec's rule speaks, and a live
one that the host has ended, which is the model's reading (log 28). -/
def Obligations.SamplerStopsWhereTheStreamEnds : Prop :=
  ∀ s : State, MemoryInv s → s.source = .finite →
    (s.mem.stop ≤ s.pos.toNat + (checkpointAdvance s).toNat →
      ∃ r, exec .chkpt s = .next { s with haltReason := .streamExhausted, ph := .halt, curRsp := r }) ∧
    (s.mem.stop ≤ s.pos.toNat + (samplePointAdvance s).toNat →
      ∃ r, exec .spoint s = .next { s with haltReason := .streamExhausted, ph := .halt, curRsp := r })

/-- The verdict by width (43_bit_sampler.md, Verdict by width; derived there): for a low pulse of width `low_w` that starts
at `fall`, no other edge before the sample point, the slot is invalid with its marker at `fall + T_CHK` when
`low_w ≤ T_CHK`, and is read at `fall + T_SP` as 1 when `T_CHK < low_w ≤ T_SP` and as 0 when `T_SP < low_w`. -/
def Obligations.SlotVerdictFollowsTheWidth : Prop :=
  ∀ s : State, MemoryInv s → s.ph = .chkpt → s.pos = s.fall → s.level = .low →
    s.mem.NextEdge s.fall.toNat s.rise.toNat → s.lowW = s.rise - s.fall →
    s.thr.tChk ≤ s.thr.tSp → s.thr.tSp.toNat < 2 ^ 32 → s.fall.toNat + s.thr.tSp.toNat < s.mem.stop →
    (∀ b, b < s.fall.toNat + s.thr.tSp.toNat + 1 → s.rise.toNat ≤ b → s.mem.level b = .high) →
    (s.lowW ≤ s.thr.tChk → ∃ t, exec .chkpt s = .next t ∧ t.ph = .progress ∧ t.bits = s.bits ∧ t.acc = s.acc ∧
      t.layer = s.layer ∧ t.fieldStart = s.fieldStart ∧ t.sink = s.sink ++ [.marker (s.fall + s.thr.tChk) .invalid]) ∧
    (s.thr.tChk < s.lowW → ∃ t, thenNext (exec .chkpt s) (exec .spoint) = .next t ∧ t.ph = .asm ∧
      t.bit = decide (s.lowW ≤ s.thr.tSp) ∧ t.pos = s.fall + s.thr.tSp ∧
      t.sink = s.sink ++ [.marker (s.fall + s.thr.tSp) (if s.lowW ≤ s.thr.tSp then .one else .zero)])

/-- ASM (44_frame_assembler.md, ASM; dropping the bit in layer Unknown is the spec's decision D20): elsewhere the bit is put
at position `bits`, the counter advances by one, the first bit of a field records the field's start, and a filled field
goes to EMIT. Nothing else changes. -/
def Obligations.AsmAcceptsOneBit : Prop :=
  ∀ s : State,
    (s.layer = .unknown → exec .asm s = .next { s with ph := .progress }) ∧
    (∀ w, layerWidth? s.layer = some w → exec .asm s = .next
      { s with
        fieldStart := (if s.bits = 0 then s.fall else s.fieldStart)
        acc := s.acc ||| ((if s.bit then (1 : BitVec 48) else 0) <<< s.bits.toNat)
        bits := s.bits + 1
        ph := (if s.bits + 1 = w then .emit else .progress) })

/-- A whole field (44_frame_assembler.md R120, R122; 20_memory.md R53): from an empty field, as many accepted slots as the
layer is wide, each with its bit and its own falling edge, fill it least significant bit first, the field starting at the
falling edge of the first slot, and the last leads to EMIT; fewer leave their number in the accumulator and the counter, and
EMIT is not reached. -/
def Obligations.FieldIsFilledLeastSignificantBitFirst : Prop :=
  ∀ (s : State) (w : BitVec 6) (b : Bool) (f : Index) (slots : List (Bool × Index)), layerWidth? s.layer = some w →
    s.bits = 0 → s.acc = 0 → slots.length + 1 ≤ w.toNat →
    ∃ t, assemble ((b, f) :: slots) s = .next t ∧ t.acc.toNat = bitsValue (b :: slots.map Prod.fst) ∧
      t.bits.toNat = slots.length + 1 ∧ t.fieldStart = f ∧ t.layer = s.layer ∧ t.sink = s.sink ∧
      (t.ph = .emit ↔ slots.length + 1 = w.toNat)

/-- EMIT (44_frame_assembler.md, EMIT; the zero warning is the spec's decision D14): the frame of the layer's kind from
`field_start` to `rise` with the accumulated value, an empty field, and the layer Data to Command, Command to CRC, CRC to
CRC. Nothing else changes. In layer Unknown, in which no run executes EMIT, the kind is a free value (log 9). -/
def Obligations.EmitSendsTheField : Prop :=
  ∀ s : State,
    (s.layer = .data → exec .emit s = .next
      { s with sink := s.sink ++ [.frame s.fieldStart s.rise .data s.acc false], bits := 0, acc := 0, layer := .command
               ph := .progress }) ∧
    (s.layer = .command → exec .emit s = .next
      { s with sink := s.sink ++ [.frame s.fieldStart s.rise .command s.acc false], bits := 0, acc := 0, layer := .crc
               ph := .progress }) ∧
    (s.layer = .crc → exec .emit s = .next
      { s with sink := s.sink ++ [.frame s.fieldStart s.rise .crc s.acc false], bits := 0, acc := 0, ph := .progress }) ∧
    (s.layer = .unknown → ∃ k, exec .emit s = .next
      { s with sink := s.sink ++ [.frame s.fieldStart s.rise k s.acc false], bits := 0, acc := 0, layer := .crc
               ph := .progress })

/-- PROGRESS (45_decode_loop.md, PROGRESS; spec's decision D24): one Progress record with the cursor's position. -/
def Obligations.ProgressReportsTheCursor : Prop :=
  ∀ s : State, s.mem.holds s.pos.toNat = true →
    ∃ r, exec .progress s = .next { s with sink := s.sink ++ [.progress s.pos], ph := .cancelchk, curRsp := r }

/-- CANCELCHK (45_decode_loop.md, CANCELCHK; spec's decision D24): with `cancel` high the event Cancelled, which writes
`halt_reason` and `ph` and nothing else; with it low the next iteration. -/
def Obligations.CancelchkPollsThePin : Prop :=
  ∀ s : State,
    (s.pins.cancel = true → exec .cancelchk s = .next { s with haltReason := .cancelled, ph := .halt }) ∧
    (s.pins.cancel = false → exec .cancelchk s = .next { s with ph := .measure })

/-! ## The cursor port and the sink port -/

/-- The four cursor commands where they complete (20_memory.md R43 to R46, 30_encoding.md R67): QUERY and PEEK_EDGE leave
the cursor, ADV_EDGE moves it to the next edge, ADV_BY by `n`; the answer's level is that of the position after. Nothing
but the cursor, the answer and the command's own port changes. -/
def Obligations.CursorCommandsAnswer : Prop :=
  ∀ s : State, MemoryInv s →
    (exec .query s = .next
      { s with curRsp := { sample := s.pos, level := s.level, eos := false }, curCmd := none }) ∧
    (∀ e : Index, s.mem.NextEdge s.pos.toNat e.toNat →
      exec .advEdge s = .next
        { s with pos := e, curRsp := { sample := e, level := s.level.flip, eos := false }, curCmd := none } ∧
      exec .peekEdge s = .next
        { s with curRsp := { sample := e, level := s.level, eos := false }, curCmd := none }) ∧
    (∀ n : BitVec 32, s.pos.toNat + n.toNat < s.mem.stop →
      exec (.advBy n) s = .next
        { s with pos := s.pos + n.setWidth 64, curCmd := none
                 curRsp := { sample := s.pos + n.setWidth 64, level := s.mem.level (s.pos.toNat + n.toNat),
                             eos := false } })

/-- The end of a stream at the cursor port (20_memory.md R47, 30_encoding.md R67; spec's decision D4): a command that
cannot complete answers with `eos = 1` and the unchanged position and level, and changes nothing else. It speaks of
every stream that can end: a finite one, of which the spec's rule speaks, and a live one that the host has ended, which
is the model's reading (log 28). -/
def Obligations.CursorCommandsAnswerEndOfStream : Prop :=
  ∀ s : State, MemoryInv s → s.source = .finite →
    (s.mem.NoEdge s.pos.toNat →
      exec .advEdge s = .next
        { s with curRsp := { sample := s.pos, level := s.level, eos := true }, curCmd := none } ∧
      exec .peekEdge s = .next
        { s with curRsp := { sample := s.pos, level := s.level, eos := true }, curCmd := none }) ∧
    (∀ n : BitVec 32, s.mem.stop ≤ s.pos.toNat + n.toNat →
      exec (.advBy n) s = .next
        { s with curRsp := { sample := s.pos, level := s.level, eos := true }, curCmd := none })

/-- Every operation that issues a cursor command, at its port or as an operation of the core, and every operation in
progress that goes on with one, is the model's fault where there is no sample under the cursor, which no run reaches
(log 11). START issues one only with an admissible record and a good configuration. -/
def Obligations.NoSampleUnderTheCursorFaults : Prop :=
  ∀ s : State, s.mem.holds s.pos.toNat = false →
    exec .query s = .fault .sampleOutsideData ∧ exec .advEdge s = .fault .sampleOutsideData ∧
    exec .peekEdge s = .fault .sampleOutsideData ∧ (∀ n, exec (.advBy n) s = .fault .sampleOutsideData) ∧
    (admissible s.params = true → s.params.minSampleRateHz ≤ s.pins.sampleRateHz.toNat → s.pins.channelValid = true →
      exec .start s = .fault .sampleOutsideData) ∧
    exec .measure s = .fault .sampleOutsideData ∧ exec .gfHigh s = .fault .sampleOutsideData ∧
    exec .gfLow s = .fault .sampleOutsideData ∧ exec .rstacc s = .fault .sampleOutsideData ∧
    exec .chkpt s = .fault .sampleOutsideData ∧ exec .spoint s = .fault .sampleOutsideData ∧
    exec .progress s = .fault .sampleOutsideData ∧ (∀ p, resume p s = .fault .sampleOutsideData)

/-- The sink takes each of the four records at its port (20_memory.md R48 to R52): it is appended whole, and nothing but the
stream and the port changes. -/
def Obligations.SinkTakesTheRecord : Prop :=
  ∀ s : State,
    (∀ a b k v w, exec (.frame a b k v w) s = .next { s with sink := s.sink ++ [.frame a b k v w], snkWord := none }) ∧
    exec .commit s = .next { s with sink := s.sink ++ [.commit], snkWord := none } ∧
    (∀ a k, exec (.marker a k) s = .next { s with sink := s.sink ++ [.marker a k], snkWord := none }) ∧
    (∀ a, exec (.progressRec a) s = .next { s with sink := s.sink ++ [.progress a], snkWord := none })
end

