-- ==== Sys2Proof/Laws/Memory.lean ====
section
/-! SUPPORT. The laws of the sample space: what the level and the next edge are in a waveform in canonical form, and that
every operation on it keeps the form. -/

namespace Sys2Proof.Machine

@[simp] theorem Level.flip_flip (l : Level) : l.flip.flip = l := by cases l <;> rfl

theorem Level.flip_ne (l : Level) : l.flip ≠ l := by cases l <;> decide

theorem Level.ne_iff_flip (k l : Level) : k ≠ l ↔ k = l.flip := by cases k <;> cases l <;> decide

/-- In a list that rises from above `lo`, every entry is above `lo` and below `hi`. -/
theorem risingIn_mem {lo hi : Nat} {es : List Nat} (h : risingIn lo hi es = true) :
    ∀ e ∈ es, lo < e ∧ e < hi := by
  induction es generalizing lo with
  | nil => simp
  | cons x xs ih =>
    simp only [risingIn, Bool.and_eq_true, decide_eq_true_eq] at h
    obtain ⟨⟨h1, h2⟩, h3⟩ := h
    intro e he
    rcases List.mem_cons.mp he with rfl | he
    · exact ⟨h1, h2⟩
    · exact ⟨Nat.lt_trans h1 (ih h3 e he).1, (ih h3 e he).2⟩

/-- A rising list may begin lower and end higher. -/
theorem risingIn_weaken {lo lo' hi hi' : Nat} {es : List Nat} (h : risingIn lo hi es = true) (hl : lo' ≤ lo)
    (hh : hi ≤ hi') : risingIn lo' hi' es = true := by
  induction es generalizing lo lo' with
  | nil => rfl
  | cons x xs ih =>
    simp only [risingIn, Bool.and_eq_true, decide_eq_true_eq] at h ⊢
    exact ⟨⟨by omega, by omega⟩, ih h.2 (Nat.le_refl x)⟩

/-- Two rising lists, the second from the end of the first, are one rising list. -/
theorem risingIn_append {lo mid hi : Nat} {es fs : List Nat} (h : risingIn lo mid es = true)
    (g : risingIn (mid - 1) hi fs = true) (hlm : lo < mid) (hm : mid ≤ hi) : risingIn lo hi (es ++ fs) = true := by
  induction es generalizing lo with
  | nil => exact risingIn_weaken g (by omega) (Nat.le_refl hi)
  | cons x xs ih =>
    simp only [risingIn, List.cons_append, Bool.and_eq_true, decide_eq_true_eq] at h ⊢
    exact ⟨⟨h.1.1, by omega⟩, ih h.2 h.1.2⟩

/-- Edges above the index change nothing. -/
theorem levelAfter_append {l : Level} {es fs : List Nat} {a : Nat} (h : ∀ e ∈ fs, a < e) :
    levelAfter l (es ++ fs) a = levelAfter l es a := by
  induction es generalizing l with
  | nil =>
    cases fs with
    | nil => rfl
    | cons f fs => simp [levelAfter, Nat.not_le.mpr (h f (by simp))]
  | cons e es ih => simp only [List.cons_append, levelAfter, ih]

theorem levelAfter_below {l : Level} {es : List Nat} {a : Nat} (h : ∀ e ∈ es, a < e) : levelAfter l es a = l := by
  simpa [levelAfter] using levelAfter_append (l := l) (es := []) (fs := es) h

theorem firstAfter_append {es fs : List Nat} {a e : Nat} (h : firstAfter es a = some e) :
    firstAfter (es ++ fs) a = some e := by
  induction es with
  | nil => simp [firstAfter] at h
  | cons x xs ih =>
    simp only [firstAfter, List.cons_append] at h ⊢
    split at h <;> simp_all

/-- What `next(a)` answers in a rising list: an entry above `a` at which the level turns over, the level being the same
from `a` up to it. -/
theorem firstAfter_some {l : Level} {lo hi : Nat} {es : List Nat} {a e : Nat} (h : risingIn lo hi es = true)
    (he : firstAfter es a = some e) :
    a < e ∧ e < hi ∧ levelAfter l es e = (levelAfter l es a).flip ∧
      ∀ b, b < e → a < b → levelAfter l es b = levelAfter l es a := by
  induction es generalizing lo l with
  | nil => simp [firstAfter] at he
  | cons x xs ih =>
    have hall := risingIn_mem h
    simp only [risingIn, Bool.and_eq_true, decide_eq_true_eq] at h
    have hxs := risingIn_mem h.2
    by_cases hx : a < x
    · simp only [firstAfter, hx, if_true, Option.some.injEq] at he
      subst he
      refine ⟨hx, h.1.2, ?_, ?_⟩
      · simp only [levelAfter, Nat.le_refl, if_true, Nat.not_le.mpr hx, if_false]
        exact levelAfter_below (fun f hf => (hxs f hf).1)
      · intro b hb hab
        simp [levelAfter, Nat.not_le.mpr hb, Nat.not_le.mpr hx]
    · simp only [firstAfter, hx, if_false] at he
      obtain ⟨h1, h2, h3, h4⟩ := ih (l := l.flip) h.2 he
      have hxa : x ≤ a := Nat.not_lt.mp hx
      have hxe : x ≤ e := by omega
      refine ⟨h1, h2, ?_, ?_⟩
      · simpa [levelAfter, hxa, hxe] using h3
      · intro b hb hab
        have hxb : x ≤ b := by omega
        simpa [levelAfter, hxa, hxb] using h4 b hb hab

/-- Where `next(a)` answers nothing, the level stays. -/
theorem firstAfter_none {l : Level} {es : List Nat} {a : Nat} (he : firstAfter es a = none) :
    ∀ b, a < b → levelAfter l es b = levelAfter l es a := by
  induction es generalizing l with
  | nil => intros; rfl
  | cons x xs ih =>
    intro b hab
    by_cases hx : a < x
    · simp [firstAfter, hx] at he
    · have hxa : x ≤ a := Nat.not_lt.mp hx
      have hxb : x ≤ b := by omega
      simp only [firstAfter, hx, if_false] at he
      simpa [levelAfter, hxa, hxb] using ih (l := l.flip) he b hab

theorem Memory.wf_iff (m : Memory) :
    m.wf = true ↔ m.base < m.stop ∧ m.stop ≤ 2 ^ 64 ∧ risingIn m.base m.stop m.edges = true := by
  simp [Memory.wf, and_assoc]

theorem Memory.holds_iff (m : Memory) (a : Nat) : m.holds a = true ↔ m.base ≤ a ∧ a < m.stop := by
  simp [Memory.holds]

/-- `next?` answers the next edge of 20_memory.md R44. -/
theorem Memory.next?_some {m : Memory} (hw : m.wf = true) {a e : Nat} (h : m.next? a = some e) : m.NextEdge a e := by
  obtain ⟨h1, h2, h3, h4⟩ := firstAfter_some (l := m.first) ((m.wf_iff.mp hw).2.2) h
  refine ⟨h1, h2, ?_, h4⟩
  show levelAfter m.first m.edges e ≠ levelAfter m.first m.edges a
  rw [h3]
  exact Level.flip_ne _

/-- `next?` answers nothing only where there is no next edge. -/
theorem Memory.next?_none {m : Memory} {a : Nat} (h : m.next? a = none) : m.NoEdge a :=
  fun b _ hab => firstAfter_none h b hab

/-- The next edge is what `next?` answers. -/
theorem Memory.next?_of_nextEdge {m : Memory} (hw : m.wf = true) {a e : Nat} (h : m.NextEdge a e) :
    m.next? a = some e := by
  cases hn : m.next? a with
  | none => exact absurd (Memory.next?_none hn e h.2.1 h.1) h.2.2.1
  | some f =>
    have hf := Memory.next?_some hw hn
    rcases Nat.lt_trichotomy e f with hlt | heq | hgt
    · exact absurd (hf.2.2.2 e hlt h.1) h.2.2.1
    · rw [heq]
    · exact absurd (h.2.2.2 f hgt hf.1) hf.2.2.1

theorem Memory.next?_of_noEdge {m : Memory} (hw : m.wf = true) {a : Nat} (h : m.NoEdge a) : m.next? a = none := by
  cases hn : m.next? a with
  | none => rfl
  | some f =>
    have hf := Memory.next?_some hw hn
    exact absurd (h f hf.2.1 hf.1) hf.2.2.1

/-- An edge is a sample of the waveform. -/
theorem Memory.holds_of_nextEdge {m : Memory} {a e : Nat} (ha : m.holds a = true) (h : m.NextEdge a e) :
    m.holds e = true := by
  rw [Memory.holds_iff] at ha ⊢
  omega

/-- Across an edge the level turns over. -/
theorem Memory.level_nextEdge {m : Memory} {a e : Nat} (h : m.NextEdge a e) : m.level e = (m.level a).flip :=
  (Level.ne_iff_flip _ _).mp h.2.2.1

/-- A delivery keeps the canonical form. -/
theorem Memory.extend_wf {m : Memory} {es : List Nat} {stop : Nat} (hw : m.wf = true) (hx : m.extends es stop = true) :
    (m.extend es stop).wf = true := by
  rw [Memory.wf_iff] at hw ⊢
  simp only [Memory.extends, Bool.and_eq_true, decide_eq_true_eq] at hx
  refine ⟨?_, hx.1.2, ?_⟩
  · show m.base < stop
    omega
  · exact risingIn_append hw.2.2 hx.2 hw.1 hx.1.1

/-- A delivery changes no sample that was there. -/
theorem Memory.extend_level {m : Memory} {es : List Nat} {stop a : Nat} (hx : m.extends es stop = true)
    (ha : a < m.stop) : (m.extend es stop).level a = m.level a := by
  simp only [Memory.extends, Bool.and_eq_true, decide_eq_true_eq] at hx
  refine levelAfter_append (fun e he => ?_)
  have := (risingIn_mem hx.2 e he).1
  omega

/-- A delivery takes no sample away. -/
theorem Memory.extend_holds {m : Memory} {es : List Nat} {stop a : Nat} (hx : m.extends es stop = true)
    (ha : m.holds a = true) : (m.extend es stop).holds a = true := by
  rw [Memory.holds_iff] at ha ⊢
  simp only [Memory.extends, Bool.and_eq_true, decide_eq_true_eq] at hx
  simp only [Memory.extend]
  omega

/-- A delivery keeps every edge. -/
theorem Memory.extend_nextEdge {m : Memory} {es : List Nat} {stop a e : Nat} (hx : m.extends es stop = true)
    (h : m.NextEdge a e) : (m.extend es stop).NextEdge a e := by
  have hl : ∀ b, b < m.stop → (m.extend es stop).level b = m.level b := fun b hb => Memory.extend_level hx hb
  have hx' := hx
  simp only [Memory.extends, Bool.and_eq_true, decide_eq_true_eq] at hx'
  obtain ⟨h1, h2, h3, h4⟩ := h
  refine ⟨h1, by simp only [Memory.extend]; omega, ?_, fun b hb hab => ?_⟩
  · rw [hl e h2, hl a (by omega)]
    exact h3
  · rw [hl b (by omega), hl a (by omega)]
    exact h4 b hb hab

/-- The edges of alternating runs rise strictly inside them (30_encoding.md R73). -/
theorem risingIn_stimulusEdges {l : Level} {rs : Stimulus} (h : alternates l rs = true) (a k : Nat) (hk : k ≤ a) :
    risingIn k (a + stimulusLength rs) (stimulusEdges a rs) = true := by
  induction rs generalizing a l k with
  | nil => rfl
  | cons r rs ih =>
    cases rs with
    | nil => rfl
    | cons r2 rs =>
      simp only [alternates, Bool.and_eq_true, decide_eq_true_eq] at h
      have h2 := ih (l := l.flip) (by simpa [alternates] using h.2) (a + r.2) (a + r.2) (Nat.le_refl _)
      simp only [stimulusEdges, risingIn, stimulusLength, Bool.and_eq_true, decide_eq_true_eq] at h2 ⊢
      refine ⟨⟨by omega, by omega⟩, ?_⟩
      rw [← Nat.add_assoc]
      exact h2

/-- The waveform a stimulus describes is in canonical form, as long as its indices are below 2^64 (30_encoding.md R73,
93_implementation_defined.md U9). -/
theorem stimulusMemory_wf {base : Nat} {rs : Stimulus} {m : Memory} (h : stimulusMemory base rs = some m)
    (hb : m.stop ≤ 2 ^ 64) : m.wf = true := by
  cases rs with
  | nil => simp [stimulusMemory] at h
  | cons r rs =>
    simp only [stimulusMemory] at h
    split at h
    · next ha =>
      simp only [Option.some.injEq] at h
      subst h
      rw [Memory.wf_iff]
      refine ⟨?_, hb, risingIn_stimulusEdges ha base base (Nat.le_refl _)⟩
      simp only [alternates, Bool.and_eq_true, decide_eq_true_eq] at ha
      simp only [stimulusLength]
      omega
    · simp at h

end Sys2Proof.Machine
end

