-- ==== Sys2Proof/Laws/State.lean ====
section
/-! SUPPORT. One lemma per field per named update of the state, true by definition, so that no later proof unfolds an update. -/

namespace Sys2Proof.Machine

@[simp] theorem emit_ph (r : Record) (s : State) : (emit r s).ph = s.ph := rfl
@[simp] theorem emit_st (r : Record) (s : State) : (emit r s).st = s.st := rfl
@[simp] theorem emit_haltReason (r : Record) (s : State) : (emit r s).haltReason = s.haltReason := rfl
@[simp] theorem emit_rise (r : Record) (s : State) : (emit r s).rise = s.rise := rfl
@[simp] theorem emit_fall (r : Record) (s : State) : (emit r s).fall = s.fall := rfl
@[simp] theorem emit_highW (r : Record) (s : State) : (emit r s).highW = s.highW := rfl
@[simp] theorem emit_lowW (r : Record) (s : State) : (emit r s).lowW = s.lowW := rfl
@[simp] theorem emit_layer (r : Record) (s : State) : (emit r s).layer = s.layer := rfl
@[simp] theorem emit_bits (r : Record) (s : State) : (emit r s).bits = s.bits := rfl
@[simp] theorem emit_acc (r : Record) (s : State) : (emit r s).acc = s.acc := rfl
@[simp] theorem emit_fieldStart (r : Record) (s : State) : (emit r s).fieldStart = s.fieldStart := rfl
@[simp] theorem emit_bit (r : Record) (s : State) : (emit r s).bit = s.bit := rfl
@[simp] theorem emit_overdrive (r : Record) (s : State) : (emit r s).overdrive = s.overdrive := rfl
@[simp] theorem emit_defer (r : Record) (s : State) : (emit r s).defer = s.defer := rfl
@[simp] theorem emit_rstWarn (r : Record) (s : State) : (emit r s).rstWarn = s.rstWarn := rfl
@[simp] theorem emit_cfgRate (r : Record) (s : State) : (emit r s).cfgRate = s.cfgRate := rfl
@[simp] theorem emit_cfgForce (r : Record) (s : State) : (emit r s).cfgForce = s.cfgForce := rfl
@[simp] theorem emit_cfgChan (r : Record) (s : State) : (emit r s).cfgChan = s.cfgChan := rfl
@[simp] theorem emit_thr (r : Record) (s : State) : (emit r s).thr = s.thr := rfl
@[simp] theorem emit_pos (r : Record) (s : State) : (emit r s).pos = s.pos := rfl
@[simp] theorem emit_mem (r : Record) (s : State) : (emit r s).mem = s.mem := rfl
@[simp] theorem emit_ended (r : Record) (s : State) : (emit r s).ended = s.ended := rfl
@[simp] theorem emit_source (r : Record) (s : State) : (emit r s).source = s.source := rfl
@[simp] theorem emit_sink (r : Record) (s : State) : (emit r s).sink = s.sink ++ [r] := rfl
@[simp] theorem emit_curRsp (r : Record) (s : State) : (emit r s).curRsp = s.curRsp := rfl
@[simp] theorem emit_waiting (r : Record) (s : State) : (emit r s).waiting = s.waiting := rfl
@[simp] theorem emit_curCmd (r : Record) (s : State) : (emit r s).curCmd = s.curCmd := rfl
@[simp] theorem emit_snkWord (r : Record) (s : State) : (emit r s).snkWord = s.snkWord := rfl
@[simp] theorem emit_pins (r : Record) (s : State) : (emit r s).pins = s.pins := rfl
@[simp] theorem emit_script (r : Record) (s : State) : (emit r s).script = s.script := rfl
@[simp] theorem emit_params (r : Record) (s : State) : (emit r s).params = s.params := rfl
@[simp] theorem emit_freeSeq (r : Record) (s : State) : (emit r s).freeSeq = s.freeSeq := rfl

@[simp] theorem answer_ph (x : Index) (b : Bool) (s : State) : (answer x b s).ph = s.ph := rfl
@[simp] theorem answer_st (x : Index) (b : Bool) (s : State) : (answer x b s).st = s.st := rfl
@[simp] theorem answer_haltReason (x : Index) (b : Bool) (s : State) : (answer x b s).haltReason = s.haltReason := rfl
@[simp] theorem answer_rise (x : Index) (b : Bool) (s : State) : (answer x b s).rise = s.rise := rfl
@[simp] theorem answer_fall (x : Index) (b : Bool) (s : State) : (answer x b s).fall = s.fall := rfl
@[simp] theorem answer_highW (x : Index) (b : Bool) (s : State) : (answer x b s).highW = s.highW := rfl
@[simp] theorem answer_lowW (x : Index) (b : Bool) (s : State) : (answer x b s).lowW = s.lowW := rfl
@[simp] theorem answer_layer (x : Index) (b : Bool) (s : State) : (answer x b s).layer = s.layer := rfl
@[simp] theorem answer_bits (x : Index) (b : Bool) (s : State) : (answer x b s).bits = s.bits := rfl
@[simp] theorem answer_acc (x : Index) (b : Bool) (s : State) : (answer x b s).acc = s.acc := rfl
@[simp] theorem answer_fieldStart (x : Index) (b : Bool) (s : State) : (answer x b s).fieldStart = s.fieldStart := rfl
@[simp] theorem answer_bit (x : Index) (b : Bool) (s : State) : (answer x b s).bit = s.bit := rfl
@[simp] theorem answer_overdrive (x : Index) (b : Bool) (s : State) : (answer x b s).overdrive = s.overdrive := rfl
@[simp] theorem answer_defer (x : Index) (b : Bool) (s : State) : (answer x b s).defer = s.defer := rfl
@[simp] theorem answer_rstWarn (x : Index) (b : Bool) (s : State) : (answer x b s).rstWarn = s.rstWarn := rfl
@[simp] theorem answer_cfgRate (x : Index) (b : Bool) (s : State) : (answer x b s).cfgRate = s.cfgRate := rfl
@[simp] theorem answer_cfgForce (x : Index) (b : Bool) (s : State) : (answer x b s).cfgForce = s.cfgForce := rfl
@[simp] theorem answer_cfgChan (x : Index) (b : Bool) (s : State) : (answer x b s).cfgChan = s.cfgChan := rfl
@[simp] theorem answer_thr (x : Index) (b : Bool) (s : State) : (answer x b s).thr = s.thr := rfl
@[simp] theorem answer_pos (x : Index) (b : Bool) (s : State) : (answer x b s).pos = s.pos := rfl
@[simp] theorem answer_mem (x : Index) (b : Bool) (s : State) : (answer x b s).mem = s.mem := rfl
@[simp] theorem answer_ended (x : Index) (b : Bool) (s : State) : (answer x b s).ended = s.ended := rfl
@[simp] theorem answer_source (x : Index) (b : Bool) (s : State) : (answer x b s).source = s.source := rfl
@[simp] theorem answer_sink (x : Index) (b : Bool) (s : State) : (answer x b s).sink = s.sink := rfl
@[simp] theorem answer_curRsp (x : Index) (b : Bool) (s : State) : (answer x b s).curRsp = { sample := x, level := s.level, eos := b } := rfl
@[simp] theorem answer_waiting (x : Index) (b : Bool) (s : State) : (answer x b s).waiting = s.waiting := rfl
@[simp] theorem answer_curCmd (x : Index) (b : Bool) (s : State) : (answer x b s).curCmd = s.curCmd := rfl
@[simp] theorem answer_snkWord (x : Index) (b : Bool) (s : State) : (answer x b s).snkWord = s.snkWord := rfl
@[simp] theorem answer_pins (x : Index) (b : Bool) (s : State) : (answer x b s).pins = s.pins := rfl
@[simp] theorem answer_script (x : Index) (b : Bool) (s : State) : (answer x b s).script = s.script := rfl
@[simp] theorem answer_params (x : Index) (b : Bool) (s : State) : (answer x b s).params = s.params := rfl
@[simp] theorem answer_freeSeq (x : Index) (b : Bool) (s : State) : (answer x b s).freeSeq = s.freeSeq := rfl

@[simp] theorem moveTo_ph (p : Index) (s : State) : (moveTo p s).ph = s.ph := rfl
@[simp] theorem moveTo_st (p : Index) (s : State) : (moveTo p s).st = s.st := rfl
@[simp] theorem moveTo_haltReason (p : Index) (s : State) : (moveTo p s).haltReason = s.haltReason := rfl
@[simp] theorem moveTo_rise (p : Index) (s : State) : (moveTo p s).rise = s.rise := rfl
@[simp] theorem moveTo_fall (p : Index) (s : State) : (moveTo p s).fall = s.fall := rfl
@[simp] theorem moveTo_highW (p : Index) (s : State) : (moveTo p s).highW = s.highW := rfl
@[simp] theorem moveTo_lowW (p : Index) (s : State) : (moveTo p s).lowW = s.lowW := rfl
@[simp] theorem moveTo_layer (p : Index) (s : State) : (moveTo p s).layer = s.layer := rfl
@[simp] theorem moveTo_bits (p : Index) (s : State) : (moveTo p s).bits = s.bits := rfl
@[simp] theorem moveTo_acc (p : Index) (s : State) : (moveTo p s).acc = s.acc := rfl
@[simp] theorem moveTo_fieldStart (p : Index) (s : State) : (moveTo p s).fieldStart = s.fieldStart := rfl
@[simp] theorem moveTo_bit (p : Index) (s : State) : (moveTo p s).bit = s.bit := rfl
@[simp] theorem moveTo_overdrive (p : Index) (s : State) : (moveTo p s).overdrive = s.overdrive := rfl
@[simp] theorem moveTo_defer (p : Index) (s : State) : (moveTo p s).defer = s.defer := rfl
@[simp] theorem moveTo_rstWarn (p : Index) (s : State) : (moveTo p s).rstWarn = s.rstWarn := rfl
@[simp] theorem moveTo_cfgRate (p : Index) (s : State) : (moveTo p s).cfgRate = s.cfgRate := rfl
@[simp] theorem moveTo_cfgForce (p : Index) (s : State) : (moveTo p s).cfgForce = s.cfgForce := rfl
@[simp] theorem moveTo_cfgChan (p : Index) (s : State) : (moveTo p s).cfgChan = s.cfgChan := rfl
@[simp] theorem moveTo_thr (p : Index) (s : State) : (moveTo p s).thr = s.thr := rfl
@[simp] theorem moveTo_pos (p : Index) (s : State) : (moveTo p s).pos = p := rfl
@[simp] theorem moveTo_mem (p : Index) (s : State) : (moveTo p s).mem = s.mem := rfl
@[simp] theorem moveTo_ended (p : Index) (s : State) : (moveTo p s).ended = s.ended := rfl
@[simp] theorem moveTo_source (p : Index) (s : State) : (moveTo p s).source = s.source := rfl
@[simp] theorem moveTo_sink (p : Index) (s : State) : (moveTo p s).sink = s.sink := rfl
@[simp] theorem moveTo_curRsp (p : Index) (s : State) : (moveTo p s).curRsp = { sample := p, level := s.mem.level p.toNat, eos := false } := rfl
@[simp] theorem moveTo_waiting (p : Index) (s : State) : (moveTo p s).waiting = s.waiting := rfl
@[simp] theorem moveTo_curCmd (p : Index) (s : State) : (moveTo p s).curCmd = s.curCmd := rfl
@[simp] theorem moveTo_snkWord (p : Index) (s : State) : (moveTo p s).snkWord = s.snkWord := rfl
@[simp] theorem moveTo_pins (p : Index) (s : State) : (moveTo p s).pins = s.pins := rfl
@[simp] theorem moveTo_script (p : Index) (s : State) : (moveTo p s).script = s.script := rfl
@[simp] theorem moveTo_params (p : Index) (s : State) : (moveTo p s).params = s.params := rfl
@[simp] theorem moveTo_freeSeq (p : Index) (s : State) : (moveTo p s).freeSeq = s.freeSeq := rfl

@[simp] theorem enterDecoding_ph (s : State) : (enterDecoding s).ph = s.ph := rfl
@[simp] theorem enterDecoding_st (s : State) : (enterDecoding s).st = .decoding := rfl
@[simp] theorem enterDecoding_haltReason (s : State) : (enterDecoding s).haltReason = s.haltReason := rfl
@[simp] theorem enterDecoding_rise (s : State) : (enterDecoding s).rise = s.rise := rfl
@[simp] theorem enterDecoding_fall (s : State) : (enterDecoding s).fall = s.fall := rfl
@[simp] theorem enterDecoding_highW (s : State) : (enterDecoding s).highW = s.highW := rfl
@[simp] theorem enterDecoding_lowW (s : State) : (enterDecoding s).lowW = s.lowW := rfl
@[simp] theorem enterDecoding_layer (s : State) : (enterDecoding s).layer = .data := rfl
@[simp] theorem enterDecoding_bits (s : State) : (enterDecoding s).bits = 0 := rfl
@[simp] theorem enterDecoding_acc (s : State) : (enterDecoding s).acc = 0 := rfl
@[simp] theorem enterDecoding_fieldStart (s : State) : (enterDecoding s).fieldStart = s.fieldStart := rfl
@[simp] theorem enterDecoding_bit (s : State) : (enterDecoding s).bit = s.bit := rfl
@[simp] theorem enterDecoding_overdrive (s : State) : (enterDecoding s).overdrive = s.overdrive := rfl
@[simp] theorem enterDecoding_defer (s : State) : (enterDecoding s).defer = s.defer := rfl
@[simp] theorem enterDecoding_rstWarn (s : State) : (enterDecoding s).rstWarn = s.rstWarn := rfl
@[simp] theorem enterDecoding_cfgRate (s : State) : (enterDecoding s).cfgRate = s.cfgRate := rfl
@[simp] theorem enterDecoding_cfgForce (s : State) : (enterDecoding s).cfgForce = s.cfgForce := rfl
@[simp] theorem enterDecoding_cfgChan (s : State) : (enterDecoding s).cfgChan = s.cfgChan := rfl
@[simp] theorem enterDecoding_thr (s : State) : (enterDecoding s).thr = s.thr := rfl
@[simp] theorem enterDecoding_pos (s : State) : (enterDecoding s).pos = s.pos := rfl
@[simp] theorem enterDecoding_mem (s : State) : (enterDecoding s).mem = s.mem := rfl
@[simp] theorem enterDecoding_ended (s : State) : (enterDecoding s).ended = s.ended := rfl
@[simp] theorem enterDecoding_source (s : State) : (enterDecoding s).source = s.source := rfl
@[simp] theorem enterDecoding_sink (s : State) : (enterDecoding s).sink = s.sink := rfl
@[simp] theorem enterDecoding_curRsp (s : State) : (enterDecoding s).curRsp = s.curRsp := rfl
@[simp] theorem enterDecoding_waiting (s : State) : (enterDecoding s).waiting = s.waiting := rfl
@[simp] theorem enterDecoding_curCmd (s : State) : (enterDecoding s).curCmd = s.curCmd := rfl
@[simp] theorem enterDecoding_snkWord (s : State) : (enterDecoding s).snkWord = s.snkWord := rfl
@[simp] theorem enterDecoding_pins (s : State) : (enterDecoding s).pins = s.pins := rfl
@[simp] theorem enterDecoding_script (s : State) : (enterDecoding s).script = s.script := rfl
@[simp] theorem enterDecoding_params (s : State) : (enterDecoding s).params = s.params := rfl
@[simp] theorem enterDecoding_freeSeq (s : State) : (enterDecoding s).freeSeq = s.freeSeq := rfl

@[simp] theorem acceptBit_ph (s : State) : (acceptBit s).ph = s.ph := rfl
@[simp] theorem acceptBit_st (s : State) : (acceptBit s).st = s.st := rfl
@[simp] theorem acceptBit_haltReason (s : State) : (acceptBit s).haltReason = s.haltReason := rfl
@[simp] theorem acceptBit_rise (s : State) : (acceptBit s).rise = s.rise := rfl
@[simp] theorem acceptBit_fall (s : State) : (acceptBit s).fall = s.fall := rfl
@[simp] theorem acceptBit_highW (s : State) : (acceptBit s).highW = s.highW := rfl
@[simp] theorem acceptBit_lowW (s : State) : (acceptBit s).lowW = s.lowW := rfl
@[simp] theorem acceptBit_layer (s : State) : (acceptBit s).layer = s.layer := rfl
@[simp] theorem acceptBit_bits (s : State) : (acceptBit s).bits = s.bits + 1 := rfl
@[simp] theorem acceptBit_acc (s : State) : (acceptBit s).acc = s.acc ||| (bitValue s.bit <<< s.bits.toNat) := rfl
@[simp] theorem acceptBit_fieldStart (s : State) : (acceptBit s).fieldStart = if s.bits = 0 then s.fall else s.fieldStart := rfl
@[simp] theorem acceptBit_bit (s : State) : (acceptBit s).bit = s.bit := rfl
@[simp] theorem acceptBit_overdrive (s : State) : (acceptBit s).overdrive = s.overdrive := rfl
@[simp] theorem acceptBit_defer (s : State) : (acceptBit s).defer = s.defer := rfl
@[simp] theorem acceptBit_rstWarn (s : State) : (acceptBit s).rstWarn = s.rstWarn := rfl
@[simp] theorem acceptBit_cfgRate (s : State) : (acceptBit s).cfgRate = s.cfgRate := rfl
@[simp] theorem acceptBit_cfgForce (s : State) : (acceptBit s).cfgForce = s.cfgForce := rfl
@[simp] theorem acceptBit_cfgChan (s : State) : (acceptBit s).cfgChan = s.cfgChan := rfl
@[simp] theorem acceptBit_thr (s : State) : (acceptBit s).thr = s.thr := rfl
@[simp] theorem acceptBit_pos (s : State) : (acceptBit s).pos = s.pos := rfl
@[simp] theorem acceptBit_mem (s : State) : (acceptBit s).mem = s.mem := rfl
@[simp] theorem acceptBit_ended (s : State) : (acceptBit s).ended = s.ended := rfl
@[simp] theorem acceptBit_source (s : State) : (acceptBit s).source = s.source := rfl
@[simp] theorem acceptBit_sink (s : State) : (acceptBit s).sink = s.sink := rfl
@[simp] theorem acceptBit_curRsp (s : State) : (acceptBit s).curRsp = s.curRsp := rfl
@[simp] theorem acceptBit_waiting (s : State) : (acceptBit s).waiting = s.waiting := rfl
@[simp] theorem acceptBit_curCmd (s : State) : (acceptBit s).curCmd = s.curCmd := rfl
@[simp] theorem acceptBit_snkWord (s : State) : (acceptBit s).snkWord = s.snkWord := rfl
@[simp] theorem acceptBit_pins (s : State) : (acceptBit s).pins = s.pins := rfl
@[simp] theorem acceptBit_script (s : State) : (acceptBit s).script = s.script := rfl
@[simp] theorem acceptBit_params (s : State) : (acceptBit s).params = s.params := rfl
@[simp] theorem acceptBit_freeSeq (s : State) : (acceptBit s).freeSeq = s.freeSeq := rfl

@[simp] theorem acceptRecord_ph (r : Record) (s : State) : (acceptRecord r s).ph = s.ph := rfl
@[simp] theorem acceptRecord_st (r : Record) (s : State) : (acceptRecord r s).st = s.st := rfl
@[simp] theorem acceptRecord_haltReason (r : Record) (s : State) : (acceptRecord r s).haltReason = s.haltReason := rfl
@[simp] theorem acceptRecord_rise (r : Record) (s : State) : (acceptRecord r s).rise = s.rise := rfl
@[simp] theorem acceptRecord_fall (r : Record) (s : State) : (acceptRecord r s).fall = s.fall := rfl
@[simp] theorem acceptRecord_highW (r : Record) (s : State) : (acceptRecord r s).highW = s.highW := rfl
@[simp] theorem acceptRecord_lowW (r : Record) (s : State) : (acceptRecord r s).lowW = s.lowW := rfl
@[simp] theorem acceptRecord_layer (r : Record) (s : State) : (acceptRecord r s).layer = s.layer := rfl
@[simp] theorem acceptRecord_bits (r : Record) (s : State) : (acceptRecord r s).bits = s.bits := rfl
@[simp] theorem acceptRecord_acc (r : Record) (s : State) : (acceptRecord r s).acc = s.acc := rfl
@[simp] theorem acceptRecord_fieldStart (r : Record) (s : State) : (acceptRecord r s).fieldStart = s.fieldStart := rfl
@[simp] theorem acceptRecord_bit (r : Record) (s : State) : (acceptRecord r s).bit = s.bit := rfl
@[simp] theorem acceptRecord_overdrive (r : Record) (s : State) : (acceptRecord r s).overdrive = s.overdrive := rfl
@[simp] theorem acceptRecord_defer (r : Record) (s : State) : (acceptRecord r s).defer = s.defer := rfl
@[simp] theorem acceptRecord_rstWarn (r : Record) (s : State) : (acceptRecord r s).rstWarn = s.rstWarn := rfl
@[simp] theorem acceptRecord_cfgRate (r : Record) (s : State) : (acceptRecord r s).cfgRate = s.cfgRate := rfl
@[simp] theorem acceptRecord_cfgForce (r : Record) (s : State) : (acceptRecord r s).cfgForce = s.cfgForce := rfl
@[simp] theorem acceptRecord_cfgChan (r : Record) (s : State) : (acceptRecord r s).cfgChan = s.cfgChan := rfl
@[simp] theorem acceptRecord_thr (r : Record) (s : State) : (acceptRecord r s).thr = s.thr := rfl
@[simp] theorem acceptRecord_pos (r : Record) (s : State) : (acceptRecord r s).pos = s.pos := rfl
@[simp] theorem acceptRecord_mem (r : Record) (s : State) : (acceptRecord r s).mem = s.mem := rfl
@[simp] theorem acceptRecord_ended (r : Record) (s : State) : (acceptRecord r s).ended = s.ended := rfl
@[simp] theorem acceptRecord_source (r : Record) (s : State) : (acceptRecord r s).source = s.source := rfl
@[simp] theorem acceptRecord_sink (r : Record) (s : State) : (acceptRecord r s).sink = s.sink ++ [r] := rfl
@[simp] theorem acceptRecord_curRsp (r : Record) (s : State) : (acceptRecord r s).curRsp = s.curRsp := rfl
@[simp] theorem acceptRecord_waiting (r : Record) (s : State) : (acceptRecord r s).waiting = s.waiting := rfl
@[simp] theorem acceptRecord_curCmd (r : Record) (s : State) : (acceptRecord r s).curCmd = s.curCmd := rfl
@[simp] theorem acceptRecord_snkWord (r : Record) (s : State) : (acceptRecord r s).snkWord = none := rfl
@[simp] theorem acceptRecord_pins (r : Record) (s : State) : (acceptRecord r s).pins = s.pins := rfl
@[simp] theorem acceptRecord_script (r : Record) (s : State) : (acceptRecord r s).script = s.script := rfl
@[simp] theorem acceptRecord_params (r : Record) (s : State) : (acceptRecord r s).params = s.params := rfl
@[simp] theorem acceptRecord_freeSeq (r : Record) (s : State) : (acceptRecord r s).freeSeq = s.freeSeq := rfl

@[simp] theorem acceptReset_ph (s : State) : (acceptReset s).ph = s.ph := rfl
@[simp] theorem acceptReset_st (s : State) : (acceptReset s).st = .resetObserved := rfl
@[simp] theorem acceptReset_haltReason (s : State) : (acceptReset s).haltReason = s.haltReason := rfl
@[simp] theorem acceptReset_rise (s : State) : (acceptReset s).rise = s.rise := rfl
@[simp] theorem acceptReset_fall (s : State) : (acceptReset s).fall = s.fall := rfl
@[simp] theorem acceptReset_highW (s : State) : (acceptReset s).highW = s.highW := rfl
@[simp] theorem acceptReset_lowW (s : State) : (acceptReset s).lowW = s.lowW := rfl
@[simp] theorem acceptReset_layer (s : State) : (acceptReset s).layer = s.layer := rfl
@[simp] theorem acceptReset_bits (s : State) : (acceptReset s).bits = s.bits := rfl
@[simp] theorem acceptReset_acc (s : State) : (acceptReset s).acc = s.acc := rfl
@[simp] theorem acceptReset_fieldStart (s : State) : (acceptReset s).fieldStart = s.fieldStart := rfl
@[simp] theorem acceptReset_bit (s : State) : (acceptReset s).bit = s.bit := rfl
@[simp] theorem acceptReset_overdrive (s : State) : (acceptReset s).overdrive = modeUpdate s.thr s.lowW s.overdrive := rfl
@[simp] theorem acceptReset_defer (s : State) : (acceptReset s).defer = s.defer := rfl
@[simp] theorem acceptReset_rstWarn (s : State) : (acceptReset s).rstWarn = s.rstWarn := rfl
@[simp] theorem acceptReset_cfgRate (s : State) : (acceptReset s).cfgRate = s.cfgRate := rfl
@[simp] theorem acceptReset_cfgForce (s : State) : (acceptReset s).cfgForce = s.cfgForce := rfl
@[simp] theorem acceptReset_cfgChan (s : State) : (acceptReset s).cfgChan = s.cfgChan := rfl
@[simp] theorem acceptReset_thr (s : State) : (acceptReset s).thr = s.thr := rfl
@[simp] theorem acceptReset_pos (s : State) : (acceptReset s).pos = s.pos := rfl
@[simp] theorem acceptReset_mem (s : State) : (acceptReset s).mem = s.mem := rfl
@[simp] theorem acceptReset_ended (s : State) : (acceptReset s).ended = s.ended := rfl
@[simp] theorem acceptReset_source (s : State) : (acceptReset s).source = s.source := rfl
@[simp] theorem acceptReset_sink (s : State) : (acceptReset s).sink = s.sink ++ [.commit] ++ [.frame s.fall s.rise .restart 0 s.rstWarn] := rfl
@[simp] theorem acceptReset_curRsp (s : State) : (acceptReset s).curRsp = s.curRsp := rfl
@[simp] theorem acceptReset_waiting (s : State) : (acceptReset s).waiting = s.waiting := rfl
@[simp] theorem acceptReset_curCmd (s : State) : (acceptReset s).curCmd = s.curCmd := rfl
@[simp] theorem acceptReset_snkWord (s : State) : (acceptReset s).snkWord = s.snkWord := rfl
@[simp] theorem acceptReset_pins (s : State) : (acceptReset s).pins = s.pins := rfl
@[simp] theorem acceptReset_script (s : State) : (acceptReset s).script = s.script := rfl
@[simp] theorem acceptReset_params (s : State) : (acceptReset s).params = s.params := rfl
@[simp] theorem acceptReset_freeSeq (s : State) : (acceptReset s).freeSeq = s.freeSeq := rfl

@[simp] theorem startRegisters_ph (s : State) : (startRegisters s).ph = s.ph := rfl
@[simp] theorem startRegisters_st (s : State) : (startRegisters s).st = .unknown := rfl
@[simp] theorem startRegisters_haltReason (s : State) : (startRegisters s).haltReason = s.haltReason := rfl
@[simp] theorem startRegisters_rise (s : State) : (startRegisters s).rise = s.rise := rfl
@[simp] theorem startRegisters_fall (s : State) : (startRegisters s).fall = 0 := rfl
@[simp] theorem startRegisters_highW (s : State) : (startRegisters s).highW = 0 := rfl
@[simp] theorem startRegisters_lowW (s : State) : (startRegisters s).lowW = 0 := rfl
@[simp] theorem startRegisters_layer (s : State) : (startRegisters s).layer = .unknown := rfl
@[simp] theorem startRegisters_bits (s : State) : (startRegisters s).bits = 0 := rfl
@[simp] theorem startRegisters_acc (s : State) : (startRegisters s).acc = 0 := rfl
@[simp] theorem startRegisters_fieldStart (s : State) : (startRegisters s).fieldStart = 0 := rfl
@[simp] theorem startRegisters_bit (s : State) : (startRegisters s).bit = false := rfl
@[simp] theorem startRegisters_overdrive (s : State) : (startRegisters s).overdrive = initialOverdrive s.params.overdriveInit s.pins.forceOverdrive := rfl
@[simp] theorem startRegisters_defer (s : State) : (startRegisters s).defer = false := rfl
@[simp] theorem startRegisters_rstWarn (s : State) : (startRegisters s).rstWarn = false := rfl
@[simp] theorem startRegisters_cfgRate (s : State) : (startRegisters s).cfgRate = s.pins.sampleRateHz := rfl
@[simp] theorem startRegisters_cfgForce (s : State) : (startRegisters s).cfgForce = s.pins.forceOverdrive := rfl
@[simp] theorem startRegisters_cfgChan (s : State) : (startRegisters s).cfgChan = s.pins.channel := rfl
@[simp] theorem startRegisters_thr (s : State) : (startRegisters s).thr = thresholds s.params s.pins.sampleRateHz := rfl
@[simp] theorem startRegisters_pos (s : State) : (startRegisters s).pos = s.pos := rfl
@[simp] theorem startRegisters_mem (s : State) : (startRegisters s).mem = s.mem := rfl
@[simp] theorem startRegisters_ended (s : State) : (startRegisters s).ended = s.ended := rfl
@[simp] theorem startRegisters_source (s : State) : (startRegisters s).source = s.source := rfl
@[simp] theorem startRegisters_sink (s : State) : (startRegisters s).sink = s.sink := rfl
@[simp] theorem startRegisters_curRsp (s : State) : (startRegisters s).curRsp = s.curRsp := rfl
@[simp] theorem startRegisters_waiting (s : State) : (startRegisters s).waiting = s.waiting := rfl
@[simp] theorem startRegisters_curCmd (s : State) : (startRegisters s).curCmd = s.curCmd := rfl
@[simp] theorem startRegisters_snkWord (s : State) : (startRegisters s).snkWord = s.snkWord := rfl
@[simp] theorem startRegisters_pins (s : State) : (startRegisters s).pins = s.pins := rfl
@[simp] theorem startRegisters_script (s : State) : (startRegisters s).script = s.script := rfl
@[simp] theorem startRegisters_params (s : State) : (startRegisters s).params = s.params := rfl
@[simp] theorem startRegisters_freeSeq (s : State) : (startRegisters s).freeSeq = s.freeSeq := rfl

@[simp] theorem hardwareReset_ph (s : State) : (hardwareReset s).ph = .idle := rfl
@[simp] theorem hardwareReset_st (s : State) : (hardwareReset s).st = .unknown := rfl
@[simp] theorem hardwareReset_haltReason (s : State) : (hardwareReset s).haltReason = .none := rfl
@[simp] theorem hardwareReset_rise (s : State) : (hardwareReset s).rise = 0 := rfl
@[simp] theorem hardwareReset_fall (s : State) : (hardwareReset s).fall = 0 := rfl
@[simp] theorem hardwareReset_highW (s : State) : (hardwareReset s).highW = 0 := rfl
@[simp] theorem hardwareReset_lowW (s : State) : (hardwareReset s).lowW = 0 := rfl
@[simp] theorem hardwareReset_layer (s : State) : (hardwareReset s).layer = .unknown := rfl
@[simp] theorem hardwareReset_bits (s : State) : (hardwareReset s).bits = 0 := rfl
@[simp] theorem hardwareReset_acc (s : State) : (hardwareReset s).acc = 0 := rfl
@[simp] theorem hardwareReset_fieldStart (s : State) : (hardwareReset s).fieldStart = 0 := rfl
@[simp] theorem hardwareReset_bit (s : State) : (hardwareReset s).bit = false := rfl
@[simp] theorem hardwareReset_overdrive (s : State) : (hardwareReset s).overdrive = false := rfl
@[simp] theorem hardwareReset_defer (s : State) : (hardwareReset s).defer = false := rfl
@[simp] theorem hardwareReset_rstWarn (s : State) : (hardwareReset s).rstWarn = false := rfl
@[simp] theorem hardwareReset_cfgRate (s : State) : (hardwareReset s).cfgRate = 0 := rfl
@[simp] theorem hardwareReset_cfgForce (s : State) : (hardwareReset s).cfgForce = false := rfl
@[simp] theorem hardwareReset_cfgChan (s : State) : (hardwareReset s).cfgChan = Config.unspecifiedChannel s.freeSeq := rfl
@[simp] theorem hardwareReset_thr (s : State) : (hardwareReset s).thr = Thresholds.zero := rfl
@[simp] theorem hardwareReset_pos (s : State) : (hardwareReset s).pos = s.pos := rfl
@[simp] theorem hardwareReset_mem (s : State) : (hardwareReset s).mem = s.mem := rfl
@[simp] theorem hardwareReset_ended (s : State) : (hardwareReset s).ended = s.ended := rfl
@[simp] theorem hardwareReset_source (s : State) : (hardwareReset s).source = s.source := rfl
@[simp] theorem hardwareReset_sink (s : State) : (hardwareReset s).sink = s.sink := rfl
@[simp] theorem hardwareReset_curRsp (s : State) : (hardwareReset s).curRsp = s.curRsp := rfl
@[simp] theorem hardwareReset_waiting (s : State) : (hardwareReset s).waiting = none := rfl
@[simp] theorem hardwareReset_curCmd (s : State) : (hardwareReset s).curCmd = s.curCmd := rfl
@[simp] theorem hardwareReset_snkWord (s : State) : (hardwareReset s).snkWord = s.snkWord := rfl
@[simp] theorem hardwareReset_pins (s : State) : (hardwareReset s).pins = s.pins := rfl
@[simp] theorem hardwareReset_script (s : State) : (hardwareReset s).script = s.script := rfl
@[simp] theorem hardwareReset_params (s : State) : (hardwareReset s).params = s.params := rfl
@[simp] theorem hardwareReset_freeSeq (s : State) : (hardwareReset s).freeSeq = s.freeSeq + 1 := rfl

@[simp] theorem raise_glitch (s : State) : raise .glitch s = emit (.marker s.fall .invalid) s := rfl
@[simp] theorem raise_invalidBitSlot (s : State) : raise .invalidBitSlot s = emit (.marker s.curRsp.sample .invalid) s := rfl
@[simp] theorem raise_outOfSpecReset (s : State) : raise .outOfSpecReset s = { s with rstWarn := true } := rfl
@[simp] theorem raise_configurationError (s : State) :
    raise .configurationError s = { s with haltReason := .configurationError, ph := .halt } := rfl
@[simp] theorem raise_streamExhausted (s : State) :
    raise .streamExhausted s = { s with haltReason := .streamExhausted, ph := .halt } := rfl
@[simp] theorem raise_cancelled (s : State) : raise .cancelled s = { s with haltReason := .cancelled, ph := .halt } := rfl

/-- The warning flag after RSTCHK is the warning of 42_reset_detector.md R102. -/
theorem recordWarning_eq (s : State) : recordWarning s = { s with rstWarn := resetWarning s.thr s.lowW s.odEff } := by
  unfold recordWarning
  split <;> simp_all

end Sys2Proof.Machine
end

