-- ==== Sys2Proof/Laws/Outcome.lean ====
section
/-! SUPPORT. What the ways an operation can end say about its next state. -/

namespace Sys2Proof.Machine

@[simp] theorem andThen_ok (s : State) (k : State → Res) : (Res.ok s).andThen k = k s := rfl
@[simp] theorem andThen_eos (s : State) (k : State → Res) : (Res.eos s).andThen k = .eos s := rfl
@[simp] theorem andThen_waits (s : State) (k : State → Res) : (Res.waits s).andThen k = .waits s := rfl
@[simp] theorem andThen_fault (f : Fault) (k : State → Res) : (Res.fault f).andThen k = .fault f := rfl
@[simp] theorem andThen_refused (f : Refusal) (k : State → Res) : (Res.refused f).andThen k = .refused f := rfl

@[simp] theorem waitingAt_ok (p : WaitPoint) (s : State) : (Res.ok s).waitingAt p = .ok s := rfl
@[simp] theorem waitingAt_eos (p : WaitPoint) (s : State) : (Res.eos s).waitingAt p = .eos s := rfl
@[simp] theorem waitingAt_waits (p : WaitPoint) (s : State) :
    (Res.waits s).waitingAt p = .waits { s with waiting := some p } := rfl
@[simp] theorem waitingAt_fault (p : WaitPoint) (f : Fault) : (Res.fault f).waitingAt p = .fault f := rfl
@[simp] theorem waitingAt_refused (p : WaitPoint) (f : Refusal) : (Res.refused f).waitingAt p = .refused f := rfl

@[simp] theorem finish_ok (t : State) : finish (.ok t) = .next t := rfl
@[simp] theorem finish_eos (t : State) : finish (.eos t) = .next (raise .streamExhausted t) := rfl
@[simp] theorem finish_waits (t : State) : finish (.waits t) = .next t := rfl
@[simp] theorem finish_fault (f : Fault) : finish (.fault f) = .fault f := rfl
@[simp] theorem finish_refused (f : Refusal) : finish (.refused f) = .refused f := rfl

@[simp] theorem thenNext_next (s : State) (k : State → Out) : thenNext (.next s) k = k s := rfl
@[simp] theorem thenNext_fault (f : Fault) (k : State → Out) : thenNext (.fault f) k = .fault f := rfl
@[simp] theorem thenNext_refused (f : Refusal) (k : State → Out) : thenNext (.refused f) k = .refused f := rfl

/-- An operation that ends in a next state was answered, or the stream was exhausted, or it waits. -/
theorem finish_next {t : State} {r : Res} (h : finish r = .next t) :
    r = .ok t ∨ (∃ u, r = .eos u ∧ t = raise .streamExhausted u) ∨ r = .waits t := by
  cases r <;> simp_all [finish]

/-- A command at the port that ends in a next state was answered, with or without `eos`, or it waits. -/
theorem finishCommand_next {s t : State} {r : Res} (h : finishCommand s r = .next t) :
    (∃ u, (r = .ok u ∨ r = .eos u) ∧ t = { u with curCmd := none }) ∨
      (∃ u, r = .waits u ∧ t = s) := by
  cases r <;> simp_all [finishCommand]

/-- What goes on after a next state began from one. -/
theorem thenNext_eq_next {o : Out} {k : State → Out} {t : State} (h : thenNext o k = .next t) :
    ∃ s, o = .next s ∧ k s = .next t := by
  cases o <;> simp_all [thenNext]

/-- Every state the result carries meets `P`. -/
def Res.All (P : State → Prop) : Res → Prop
  | .ok s => P s
  | .eos s => P s
  | .waits s => P s
  | .fault _ => True
  | .refused _ => True

@[simp] theorem all_ok (P : State → Prop) (s : State) : (Res.ok s).All P ↔ P s := Iff.rfl
@[simp] theorem all_eos (P : State → Prop) (s : State) : (Res.eos s).All P ↔ P s := Iff.rfl
@[simp] theorem all_waits (P : State → Prop) (s : State) : (Res.waits s).All P ↔ P s := Iff.rfl
@[simp] theorem all_fault (P : State → Prop) (f : Fault) : (Res.fault f).All P ↔ True := Iff.rfl
@[simp] theorem all_refused (P : State → Prop) (f : Refusal) : (Res.refused f).All P ↔ True := Iff.rfl

/-- A property that the first command leaves true and what follows keeps. -/
theorem Res.All.andThen {P : State → Prop} {r : Res} {k : State → Res} (h : r.All P)
    (hk : ∀ s, P s → (k s).All P) : (r.andThen k).All P := by
  cases r <;> simp_all [Res.All, Res.andThen]

/-- A property that marking the point of a wait keeps. -/
theorem Res.All.waitingAt {P : State → Prop} {r : Res} {p : WaitPoint} (h : r.All P)
    (hw : ∀ s, P s → P { s with waiting := some p }) : (r.waitingAt p).All P := by
  cases r <;> simp_all [Res.All, Res.waitingAt]

/-- A property of every state the operation carries holds of its next state, if entering HALT keeps it. -/
theorem Res.All.finish {P : State → Prop} {t : State} {r : Res} (h : r.All P)
    (hr : ∀ u, P u → P (raise .streamExhausted u)) (ht : Machine.finish r = .next t) : P t := by
  rcases finish_next ht with rfl | ⟨u, rfl, rfl⟩ | rfl
  · exact h
  · exact hr u h
  · exact h

/-- The same for a command at the port. -/
theorem Res.All.finishCommand {P : State → Prop} {s t : State} {r : Res} (h : r.All P) (hs : P s)
    (hr : ∀ u, P u → P { u with curCmd := none }) (ht : Machine.finishCommand s r = .next t) : P t := by
  rcases finishCommand_next ht with ⟨u, rfl | rfl, rfl⟩ | ⟨u, rfl, rfl⟩
  · exact hr u h
  · exact hr u h
  · exact hs

end Sys2Proof.Machine
end

