-- ==== Sys2Proof/Laws/Cursor.lean ====
section
/-! SUPPORT. What each cursor command can do, said once; and what the outside can do between operations. -/

namespace Sys2Proof.Machine

/-- The bounds of the cursor in numbers. -/
theorem MemoryInv.bounds {s : State} (h : MemoryInv s) :
    s.mem.base ≤ s.pos.toNat ∧ s.pos.toNat < s.mem.stop ∧ s.mem.stop ≤ 2 ^ 64 :=
  ⟨((Memory.holds_iff _ _).mp h.2).1, ((Memory.holds_iff _ _).mp h.2).2, ((Memory.wf_iff _).mp h.1).2.1⟩

theorem onSample_of_holds {s : State} (h : s.mem.holds s.pos.toNat = true) (r : Res) : onSample s r = r := by
  simp [onSample, h]

/-- Where the cursor stands on no sample every command faults. -/
theorem onSample_of_not {s : State} (h : s.mem.holds s.pos.toNat = false) (r : Res) :
    onSample s r = .fault .sampleOutsideData := by
  simp [onSample, h]

theorem query_eq {s : State} (h : s.mem.holds s.pos.toNat = true) : query s = .ok (answer s.pos false s) :=
  onSample_of_holds h _

/-- A finite stream can end, ended or not. -/
theorem source_of_finite {s : State} (h : s.params.stream = .finite) : s.source = .finite := by
  simp [State.source, h]

/-- A stream that the host has ended can end. -/
theorem source_of_ended {s : State} (h : s.ended = true) : s.source = .finite := by
  simp [State.source, h]

/-- A command waits only on a live stream that has not been ended. -/
theorem source_live_iff {s : State} : s.source = .live ↔ s.ended = false ∧ s.params.stream = .live := by
  unfold State.source
  cases s.ended <;> simp

theorem endOfData_finite {s : State} (h : s.source = .finite) : endOfData s = .eos (answer s.pos true s) := by
  simp [endOfData, h]

theorem endOfData_live {s : State} (h : s.source = .live) : endOfData s = .waits s := by
  simp [endOfData, h]

/-- An edge's index is below 2^64, so a register holds it. -/
theorem NextEdge.index {s : State} (h : MemoryInv s) {a e : Nat} (he : s.mem.NextEdge a e) :
    (BitVec.ofNat 64 e).toNat = e := by
  have := h.bounds
  have := he.2.1
  simp only [BitVec.toNat_ofNat]
  omega

/-- ADV_EDGE where there is a next edge (20_memory.md R44). -/
theorem advEdge_eq {s : State} (h : MemoryInv s) {e : Index} (he : s.mem.NextEdge s.pos.toNat e.toNat) :
    advEdge s = .ok (moveTo e s) := by
  simp only [advEdge, onSample_of_holds h.2, Memory.next?_of_nextEdge h.1 he, BitVec.ofNat_toNat, BitVec.setWidth_eq]

/-- ADV_EDGE where there is none (20_memory.md R47). -/
theorem advEdge_none {s : State} (h : MemoryInv s) (he : s.mem.NoEdge s.pos.toNat) : advEdge s = endOfData s := by
  simp only [advEdge, onSample_of_holds h.2, Memory.next?_of_noEdge h.1 he]

/-- PEEK_EDGE where there is a next edge (20_memory.md R45). -/
theorem peekEdge_eq {s : State} (h : MemoryInv s) {e : Index} (he : s.mem.NextEdge s.pos.toNat e.toNat) :
    peekEdge s = .ok (answer e false s) := by
  simp only [peekEdge, onSample_of_holds h.2, Memory.next?_of_nextEdge h.1 he, BitVec.ofNat_toNat, BitVec.setWidth_eq]

theorem peekEdge_none {s : State} (h : MemoryInv s) (he : s.mem.NoEdge s.pos.toNat) : peekEdge s = endOfData s := by
  simp only [peekEdge, onSample_of_holds h.2, Memory.next?_of_noEdge h.1 he]

/-- Either there is a next edge or there is none. -/
theorem nextEdge_cases {s : State} (h : MemoryInv s) (a : Nat) :
    (∃ e : Index, s.mem.NextEdge a e.toNat) ∨ s.mem.NoEdge a := by
  cases hn : s.mem.next? a with
  | none => exact .inr (Memory.next?_none hn)
  | some e =>
    have he := Memory.next?_some h.1 hn
    exact .inl ⟨BitVec.ofNat 64 e, by rw [NextEdge.index h he]; exact he⟩

/-- All that ADV_EDGE can do. -/
theorem advEdge_cases {s : State} (h : MemoryInv s) :
    (∃ e : Index, s.mem.NextEdge s.pos.toNat e.toNat ∧ advEdge s = .ok (moveTo e s)) ∨
      (s.mem.NoEdge s.pos.toNat ∧ advEdge s = endOfData s) := by
  rcases nextEdge_cases h s.pos.toNat with ⟨e, he⟩ | hn
  · exact .inl ⟨e, he, advEdge_eq h he⟩
  · exact .inr ⟨hn, advEdge_none h hn⟩

/-- All that PEEK_EDGE can do. -/
theorem peekEdge_cases {s : State} (h : MemoryInv s) :
    (∃ e : Index, s.mem.NextEdge s.pos.toNat e.toNat ∧ peekEdge s = .ok (answer e false s)) ∨
      (s.mem.NoEdge s.pos.toNat ∧ peekEdge s = endOfData s) := by
  rcases nextEdge_cases h s.pos.toNat with ⟨e, he⟩ | hn
  · exact .inl ⟨e, he, peekEdge_eq h he⟩
  · exact .inr ⟨hn, peekEdge_none h hn⟩

/-- ADV_BY inside the data (20_memory.md R46). -/
theorem advBy_eq {s : State} (h : MemoryInv s) {n : BitVec 32} (hn : s.pos.toNat + n.toNat < s.mem.stop) :
    advBy n s = .ok (moveTo (s.pos + n.setWidth 64) s) := by
  simp [advBy, onSample_of_holds h.2, hn]

/-- The position ADV_BY moves to, as a number. -/
theorem advBy_pos {s : State} (h : MemoryInv s) {n : BitVec 32} (hn : s.pos.toNat + n.toNat < s.mem.stop) :
    (s.pos + n.setWidth 64).toNat = s.pos.toNat + n.toNat := by
  have := h.bounds
  have := n.isLt
  simp only [BitVec.toNat_add, BitVec.toNat_setWidth]
  omega

/-- All that ADV_BY can do. -/
theorem advBy_cases {s : State} (h : MemoryInv s) (n : BitVec 32) :
    (s.pos.toNat + n.toNat < s.mem.stop ∧ advBy n s = .ok (moveTo (s.pos + n.setWidth 64) s)) ∨
      (s.mem.stop ≤ s.pos.toNat + n.toNat ∧ s.source = .live ∧ 2 ^ 64 ≤ s.pos.toNat + n.toNat ∧
        advBy n s = .refused .indexBeyond64) ∨
      (s.mem.stop ≤ s.pos.toNat + n.toNat ∧ advBy n s = endOfData s) := by
  by_cases hn : s.pos.toNat + n.toNat < s.mem.stop
  · exact .inl ⟨hn, advBy_eq h hn⟩
  · by_cases hl : s.source = .live ∧ 2 ^ 64 ≤ s.pos.toNat + n.toNat
    · exact .inr (.inl ⟨by omega, hl.1, hl.2, by simp only [advBy, onSample_of_holds h.2, hn, hl, and_self, if_true, if_false]⟩)
    · exact .inr (.inr ⟨by omega, by simp only [advBy, onSample_of_holds h.2, hn, hl, if_false]⟩)

/-- A command at a High or Low position answers with that level. -/
@[simp] theorem answer_level (x : Index) (b : Bool) (s : State) : (answer x b s).level = s.level := rfl

@[simp] theorem moveTo_level (p : Index) (s : State) : (moveTo p s).level = s.mem.level p.toNat := rfl

@[simp] theorem answer_memoryInv (x : Index) (b : Bool) (s : State) : MemoryInv (answer x b s) ↔ MemoryInv s := Iff.rfl

theorem moveTo_memoryInv {s : State} (h : MemoryInv s) {p : Index} (hp : s.mem.holds p.toNat = true) :
    MemoryInv (moveTo p s) := ⟨h.1, hp⟩

/-- `rise <- CurSample()`. -/
theorem riseFromCursor_eq {s : State} (h : s.mem.holds s.pos.toNat = true) :
    riseFromCursor s = .ok { answer s.pos false s with rise := s.pos } := by
  simp only [riseFromCursor, query_eq h, andThen_ok, answer_curRsp]

/-- The low pulse measured to the next edge (41_acquire_glitch.md R90). -/
theorem measureLow_eq {s : State} (h : MemoryInv s) {e : Index} (he : s.mem.NextEdge s.pos.toNat e.toNat) :
    measureLow s = .ok { answer e false s with rise := e, lowW := e - s.fall, ph := .glitch } := by
  simp only [measureLow, peekEdge_eq h he, waitingAt_ok, andThen_ok, answer_curRsp, answer_fall]

/-- The low pulse that the data ends in. -/
theorem measureLow_none {s : State} (h : MemoryInv s) (he : s.mem.NoEdge s.pos.toNat) :
    measureLow s = ((endOfData s).waitingAt .lowPulseEnd).andThen
      fun t => .ok { t with rise := t.curRsp.sample, lowW := t.curRsp.sample - t.fall, ph := .glitch } := by
  simp only [measureLow, peekEdge_none h he]

/-- A pulse pair measured from `rise` (41_acquire_glitch.md R90, R92). -/
theorem measureFromRise_eq {s : State} (h : MemoryInv s) {down e : Index}
    (hd : s.mem.NextEdge s.pos.toNat down.toNat) (he : s.mem.NextEdge down.toNat e.toNat) :
    measureFromRise s = .ok
      { s with pos := down, fall := down, highW := down - s.rise, rise := e, lowW := e - down, ph := .glitch,
               curRsp := { sample := e, level := s.mem.level down.toNat, eos := false } } := by
  have hh := Memory.holds_of_nextEdge h.2 hd
  have h1 : MemoryInv (moveTo down s) := moveTo_memoryInv h hh
  simp only [measureFromRise, advEdge_eq h hd, waitingAt_ok, andThen_ok, query_eq h1.2]
  exact measureLow_eq (s := { answer (moveTo down s).pos false (moveTo down s) with
    fall := down, highW := down - s.rise }) (e := e) h1 he

/-- Driving the pins changes nothing else. -/
theorem turnPins_eq (p : Option Pins) (s : State) : ∃ pins, turnPins p s = { s with pins := pins } := by
  cases p with
  | none => exact ⟨s.pins, rfl⟩
  | some p => exact ⟨p, rfl⟩

/-- Binding a capture happens only while no run is on, and only to a waveform with the cursor on a sample. -/
theorem turnCapture_cases {c : Option (Memory × Index)} {s t : State} (h : turnCapture c s = .next t) :
    t = s ∨ ∃ m p, s.busy = false ∧ m.wf = true ∧ m.holds p.toNat = true ∧
      t = { s with mem := m, pos := p, ended := false } := by
  unfold turnCapture at h
  split at h
  · cases h; exact .inl rfl
  · next m p =>
    split at h
    · cases h
    · next hb =>
      simp only [Bool.not_eq_true, Bool.or_eq_false_iff, Bool.not_eq_false'] at hb
      cases h
      exact .inr ⟨m, p, hb.1.1, hb.1.2, hb.2, rfl⟩

/-- A delivery happens only on a live stream, and only adds samples. -/
theorem turnDeliver_cases {d : Option (List Nat × Nat)} {s t : State} (h : turnDeliver d s = .next t) :
    t = s ∨ ∃ es stop, s.source = .live ∧ s.mem.extends es stop = true ∧ t = { s with mem := s.mem.extend es stop } := by
  unfold turnDeliver at h
  split at h
  · cases h; exact .inl rfl
  · next es stop =>
    split at h
    · next hl => cases h; exact .inr ⟨es, stop, hl.1, hl.2, rfl⟩
    · cases h

/-- Ending the stream changes nothing else. -/
theorem turnEnd_eq (e : Bool) (s : State) : turnEnd e s = { s with ended := s.ended || e } := by
  cases s
  cases e <;> simp [turnEnd]

/-- What the outside can have done between two operations: nothing; or it took the next entry of the script, drove the
pins, bound a capture while no run was on, delivered samples on a live stream, ended it. A stream that has been ended stays
so but for a new capture. -/
theorem hostTurn_cases {s t : State} (h : hostTurn s = .next t) :
    t = s ∨
      ∃ pins script mem pos ended,
        t = { s with pins := pins, script := script, mem := mem, pos := pos, ended := ended } ∧
        ((mem = s.mem ∧ pos = s.pos ∧ (s.ended = true → ended = true)) ∨
          (s.source = .live ∧ pos = s.pos ∧
            ∃ es stop, s.mem.extends es stop = true ∧ mem = s.mem.extend es stop) ∨
          (s.busy = false ∧ ∃ m, m.wf = true ∧ m.holds pos.toNat = true ∧
            (mem = m ∨
              (s.params.stream = .live ∧ ∃ es stop, m.extends es stop = true ∧ mem = m.extend es stop)))) := by
  unfold hostTurn at h
  split at h
  · cases h; exact .inl rfl
  · next tn ts _ =>
    obtain ⟨pins, hp⟩ := turnPins_eq tn.pins { s with script := ts }
    obtain ⟨u, hu, h⟩ := thenNext_eq_next h
    obtain ⟨v, hv, h⟩ := thenNext_eq_next h
    rw [hp] at hu
    rw [turnEnd_eq] at h
    cases h
    right
    rcases turnCapture_cases hu with rfl | ⟨m, p, hb, hw, hh, rfl⟩ <;>
      rcases turnDeliver_cases hv with rfl | ⟨es, stop, hl, hx, rfl⟩
    · exact ⟨pins, ts, _, _, _, rfl, .inl ⟨rfl, rfl, fun he => by simp [he]⟩⟩
    · exact ⟨pins, ts, _, _, _, rfl, .inr (.inl ⟨hl, rfl, es, stop, hx, rfl⟩)⟩
    · exact ⟨pins, ts, _, _, _, rfl, .inr (.inr ⟨hb, m, hw, hh, .inl rfl⟩)⟩
    · exact ⟨pins, ts, _, _, _, rfl, .inr (.inr ⟨hb, m, hw, hh, .inr ⟨(source_live_iff.mp hl).2, es, stop, hx, rfl⟩⟩)⟩

/-- With an empty script the outside stays as it is. -/
theorem hostTurn_empty {s : State} (h : s.script = []) : hostTurn s = .next s := by
  simp [hostTurn, h]

/-- The outside's turn keeps the canonical form and leaves the cursor on a sample. -/
theorem hostTurn_memoryInv {s t : State} (hs : MemoryInv s) (h : hostTurn s = .next t) : MemoryInv t := by
  rcases hostTurn_cases h with rfl | ⟨pins, script, mem, pos, ended, rfl, hc⟩
  · exact hs
  · rcases hc with ⟨rfl, rfl, _⟩ | ⟨_, rfl, es, stop, hx, rfl⟩ | ⟨_, m, hw, hp, rfl | ⟨_, es, stop, hx, rfl⟩⟩
    · exact hs
    · exact ⟨Memory.extend_wf hs.1 hx, Memory.extend_holds hx hs.2⟩
    · exact ⟨hw, hp⟩
    · exact ⟨Memory.extend_wf hw hx, Memory.extend_holds hx hp⟩

end Sys2Proof.Machine
end

