-- ==== Sys2Proof/Laws/Acquire.lean ====
section
/-! SUPPORT. What each piece of MEASURE, GF_HIGH and GF_LOW does: where its first cursor command is answered, and where the
data ends there, on a finite and on a live stream. -/

namespace Sys2Proof.Machine

/-! ## A single command without an edge to find -/

theorem advEdge_finite {s : State} (h : MemoryInv s) (hf : s.source = .finite) (hn : s.mem.NoEdge s.pos.toNat) :
    advEdge s = .eos (answer s.pos true s) := by
  rw [advEdge_none h hn, endOfData_finite hf]

theorem advEdge_live {s : State} (h : MemoryInv s) (hl : s.source = .live) (hn : s.mem.NoEdge s.pos.toNat) :
    advEdge s = .waits s := by
  rw [advEdge_none h hn, endOfData_live hl]

theorem advBy_live {s : State} (h : MemoryInv s) (hl : s.source = .live) {n : BitVec 32}
    (hn : s.mem.stop ≤ s.pos.toNat + n.toNat) (hb : s.pos.toNat + n.toNat < 2 ^ 64) : advBy n s = .waits s := by
  rcases advBy_cases h n with ⟨h1, _⟩ | ⟨_, _, h2, _⟩ | ⟨_, h3⟩
  · omega
  · omega
  · rw [h3, endOfData_live hl]

/-! ## The low pulse (41_acquire_glitch.md R90, R92, R93) -/

theorem measureLow_finite {s : State} (h : MemoryInv s) (hf : s.source = .finite)
    (hn : s.mem.NoEdge s.pos.toNat) : measureLow s = .eos (answer s.pos true s) := by
  rw [measureLow_none h hn, endOfData_finite hf, waitingAt_eos, andThen_eos]

theorem measureLow_live {s : State} (h : MemoryInv s) (hl : s.source = .live) (hn : s.mem.NoEdge s.pos.toNat) :
    measureLow s = .waits { s with waiting := some .lowPulseEnd } := by
  rw [measureLow_none h hn, endOfData_live hl, waitingAt_waits, andThen_waits]

/-! ## The pulse pair from `rise` -/

/-- The falling edge found: `fall` and `high_w` are written, the low pulse is left to measure. -/
theorem measureFromRise_of_nextEdge {s : State} (h : MemoryInv s) {down : Index}
    (hd : s.mem.NextEdge s.pos.toNat down.toNat) :
    measureFromRise s = measureLow
      { s with pos := down, fall := down, highW := down - s.rise
               curRsp := { sample := down, level := s.mem.level down.toNat, eos := false } } := by
  have h1 : MemoryInv (moveTo down s) := moveTo_memoryInv h (Memory.holds_of_nextEdge h.2 hd)
  simp only [measureFromRise, advEdge_eq h hd, waitingAt_ok, andThen_ok, query_eq h1.2]
  rfl

theorem measureFromRise_finite {s : State} (h : MemoryInv s) (hf : s.source = .finite)
    (hn : s.mem.NoEdge s.pos.toNat) : measureFromRise s = .eos (answer s.pos true s) := by
  simp only [measureFromRise, advEdge_finite h hf hn, waitingAt_eos, andThen_eos]

theorem measureFromRise_live {s : State} (h : MemoryInv s) (hl : s.source = .live)
    (hn : s.mem.NoEdge s.pos.toNat) : measureFromRise s = .waits { s with waiting := some .fallingEdge } := by
  simp only [measureFromRise, advEdge_live h hl hn, waitingAt_waits, andThen_waits]

/-! ## The pulse pair from a low period -/

/-- The rising edge found: `rise` is written, the pulse pair from there is left to measure. -/
theorem measureFromLow_of_nextEdge {s : State} (h : MemoryInv s) {up : Index}
    (hu : s.mem.NextEdge s.pos.toNat up.toNat) :
    measureFromLow s = measureFromRise
      { s with pos := up, rise := up, curRsp := { sample := up, level := s.mem.level up.toNat, eos := false } } := by
  have h1 : MemoryInv (moveTo up s) := moveTo_memoryInv h (Memory.holds_of_nextEdge h.2 hu)
  simp only [measureFromLow, advEdge_eq h hu, waitingAt_ok, andThen_ok, riseFromCursor_eq h1.2]
  rfl

theorem measureFromLow_finite {s : State} (h : MemoryInv s) (hf : s.source = .finite)
    (hn : s.mem.NoEdge s.pos.toNat) : measureFromLow s = .eos (answer s.pos true s) := by
  simp only [measureFromLow, advEdge_finite h hf hn, waitingAt_eos, andThen_eos]

theorem measureFromLow_live {s : State} (h : MemoryInv s) (hl : s.source = .live)
    (hn : s.mem.NoEdge s.pos.toNat) : measureFromLow s = .waits { s with waiting := some .risingEdge } := by
  simp only [measureFromLow, advEdge_live h hl hn, waitingAt_waits, andThen_waits]

/-! ## GF_LOW after its marker -/

/-- The end of the merged high pulse found: `fall` and `high_w` are written, the low pulse is left to measure. -/
theorem mergeHighPulse_of_nextEdge {s : State} (h : MemoryInv s) {down : Index}
    (hd : s.mem.NextEdge s.pos.toNat down.toNat) :
    mergeHighPulse s = measureLow
      { s with pos := down, fall := down, highW := s.highW + (down - s.fall)
               curRsp := { sample := down, level := s.mem.level down.toNat, eos := false } } := by
  have h1 : MemoryInv (moveTo down s) := moveTo_memoryInv h (Memory.holds_of_nextEdge h.2 hd)
  simp only [mergeHighPulse, advEdge_eq h hd, waitingAt_ok, andThen_ok, query_eq h1.2]
  rfl

theorem mergeHighPulse_finite {s : State} (h : MemoryInv s) (hf : s.source = .finite)
    (hn : s.mem.NoEdge s.pos.toNat) : mergeHighPulse s = .eos (answer s.pos true s) := by
  simp only [mergeHighPulse, advEdge_finite h hf hn, waitingAt_eos, andThen_eos]

theorem mergeHighPulse_live {s : State} (h : MemoryInv s) (hl : s.source = .live)
    (hn : s.mem.NoEdge s.pos.toNat) : mergeHighPulse s = .waits { s with waiting := some .mergedPulseEnd } := by
  simp only [mergeHighPulse, advEdge_live h hl hn, waitingAt_waits, andThen_waits]

theorem skipLowSpike_of_nextEdge {s : State} (h : MemoryInv s) {up : Index}
    (hu : s.mem.NextEdge s.pos.toNat up.toNat) : skipLowSpike s = mergeHighPulse (moveTo up s) := by
  simp only [skipLowSpike, advEdge_eq h hu, waitingAt_ok, andThen_ok]

theorem skipLowSpike_finite {s : State} (h : MemoryInv s) (hf : s.source = .finite)
    (hn : s.mem.NoEdge s.pos.toNat) : skipLowSpike s = .eos (answer s.pos true s) := by
  simp only [skipLowSpike, advEdge_finite h hf hn, waitingAt_eos, andThen_eos]

theorem skipLowSpike_live {s : State} (h : MemoryInv s) (hl : s.source = .live)
    (hn : s.mem.NoEdge s.pos.toNat) : skipLowSpike s = .waits { s with waiting := some .spikeEnd } := by
  simp only [skipLowSpike, advEdge_live h hl hn, waitingAt_waits, andThen_waits]

/-- MEASURE is the pulse pair from a low period or from `rise`, as the level under the cursor says. -/
theorem execMeasure_eq {s : State} (h : MemoryInv s) :
    execMeasure s = finish
      (match s.level with
      | .low => measureFromLow (answer s.pos false s)
      | .high => measureFromRise (answer s.pos false s)) := by
  simp only [execMeasure, query_eq h.2, andThen_ok]
  rfl

end Sys2Proof.Machine
end

