-- ==== Sys2Proof/Laws/PerInstr.lean ====
section
/-! SUPPORT. What is said of every operation as syntax, one lemma each. -/

namespace Sys2Proof.Laws

open Sys2Proof

/-- An operation of the controller is encoded as its phase's code and no other operation as a phase code
(45_decode_loop.md R130, 30_encoding.md R60). -/
def EncodeFormat.Statement (i : Instr) : Prop :=
  (∀ p, i.phase? = some p → encode i = .phase p.code) ∧ (i.phase? = none → ∀ c, encode i ≠ .phase c)

theorem EncodeFormat.idle : EncodeFormat.Statement .idle := by simp [EncodeFormat.Statement, Instr.phase?, encode]
theorem EncodeFormat.start : EncodeFormat.Statement .start := by simp [EncodeFormat.Statement, Instr.phase?, encode]
theorem EncodeFormat.measure : EncodeFormat.Statement .measure := by
  simp [EncodeFormat.Statement, Instr.phase?, encode]
theorem EncodeFormat.gfHigh : EncodeFormat.Statement .gfHigh := by simp [EncodeFormat.Statement, Instr.phase?, encode]
theorem EncodeFormat.gfLow : EncodeFormat.Statement .gfLow := by simp [EncodeFormat.Statement, Instr.phase?, encode]
theorem EncodeFormat.gfPass : EncodeFormat.Statement .gfPass := by simp [EncodeFormat.Statement, Instr.phase?, encode]
theorem EncodeFormat.gapchk : EncodeFormat.Statement .gapchk := by simp [EncodeFormat.Statement, Instr.phase?, encode]
theorem EncodeFormat.gapflush : EncodeFormat.Statement .gapflush := by
  simp [EncodeFormat.Statement, Instr.phase?, encode]
theorem EncodeFormat.rstchk : EncodeFormat.Statement .rstchk := by simp [EncodeFormat.Statement, Instr.phase?, encode]
theorem EncodeFormat.rstacc : EncodeFormat.Statement .rstacc := by simp [EncodeFormat.Statement, Instr.phase?, encode]
theorem EncodeFormat.rstre : EncodeFormat.Statement .rstre := by simp [EncodeFormat.Statement, Instr.phase?, encode]
theorem EncodeFormat.chkpt : EncodeFormat.Statement .chkpt := by simp [EncodeFormat.Statement, Instr.phase?, encode]
theorem EncodeFormat.spoint : EncodeFormat.Statement .spoint := by simp [EncodeFormat.Statement, Instr.phase?, encode]
theorem EncodeFormat.asm : EncodeFormat.Statement .asm := by simp [EncodeFormat.Statement, Instr.phase?, encode]
theorem EncodeFormat.emit : EncodeFormat.Statement .emit := by simp [EncodeFormat.Statement, Instr.phase?, encode]
theorem EncodeFormat.progress : EncodeFormat.Statement .progress := by
  simp [EncodeFormat.Statement, Instr.phase?, encode]
theorem EncodeFormat.cancelchk : EncodeFormat.Statement .cancelchk := by
  simp [EncodeFormat.Statement, Instr.phase?, encode]
theorem EncodeFormat.halt : EncodeFormat.Statement .halt := by simp [EncodeFormat.Statement, Instr.phase?, encode]
theorem EncodeFormat.query : EncodeFormat.Statement .query := by simp [EncodeFormat.Statement, Instr.phase?, encode]
theorem EncodeFormat.advEdge : EncodeFormat.Statement .advEdge := by
  simp [EncodeFormat.Statement, Instr.phase?, encode]
theorem EncodeFormat.peekEdge : EncodeFormat.Statement .peekEdge := by
  simp [EncodeFormat.Statement, Instr.phase?, encode]
theorem EncodeFormat.advBy (n : BitVec 32) : EncodeFormat.Statement (.advBy n) := by
  simp [EncodeFormat.Statement, Instr.phase?, encode]
theorem EncodeFormat.frame (startSample endSample : Index) (kind : FrameKind) (value : BitVec 48) (warning : Bool) :
    EncodeFormat.Statement (.frame startSample endSample kind value warning) := by
  simp [EncodeFormat.Statement, Instr.phase?, encode]
theorem EncodeFormat.commit : EncodeFormat.Statement .commit := by simp [EncodeFormat.Statement, Instr.phase?, encode]
theorem EncodeFormat.marker (sample : Index) (kind : MarkerKind) : EncodeFormat.Statement (.marker sample kind) := by
  simp [EncodeFormat.Statement, Instr.phase?, encode]
theorem EncodeFormat.progressRec (sample : Index) : EncodeFormat.Statement (.progressRec sample) := by
  simp [EncodeFormat.Statement, Instr.phase?, encode]

end Sys2Proof.Laws
end

