-- ==== Sys2Proof/Laws/Step.lean ====
section
/-! SUPPORT. What a step can do, and which operation it fetches. -/

namespace Sys2Proof.Machine

/-- A step that answers a next state is an operation in progress that goes on, a hardware reset of one, a hardware reset with
none in progress, or a fetched operation, and then the outside's turn. -/
theorem step_cases {s t : State} (h : step s = .next t) :
    (∃ p u, s.waiting = some p ∧ s.pins.rst = false ∧ resume p s = .next u ∧ hostTurn u = .next t) ∨
    (∃ p, s.waiting = some p ∧ s.pins.rst = true ∧ hostTurn (resetInProgress p s) = .next t) ∨
    (s.waiting = none ∧ s.pins.rst = true ∧ hostTurn (hardwareReset s) = .next t) ∨
    (s.waiting = none ∧ s.pins.rst = false ∧ ∃ i u, fetch s = .ok i ∧ exec i s = .next u ∧ hostTurn u = .next t) := by
  unfold step at h
  split at h
  · next p hp =>
    split at h
    · next hr => exact .inr (.inl ⟨p, hp, hr, h⟩)
    · next hr =>
      obtain ⟨u, hu, hk⟩ := thenNext_eq_next h
      exact .inl ⟨p, u, hp, by simpa using hr, hu, hk⟩
  · next hw =>
    split at h
    · next hr => exact .inr (.inr (.inl ⟨hw, hr, h⟩))
    · next hr =>
      refine .inr (.inr (.inr ⟨hw, by simpa using hr, ?_⟩))
      cases hf : fetch s with
      | error e => simp [hf] at h
      | ok i =>
        rw [hf] at h
        obtain ⟨u, hu, hk⟩ := thenNext_eq_next h
        exact ⟨i, u, rfl, hu, hk⟩

/-- An operation in progress goes on while `rst` is low. -/
theorem step_of_waiting {s : State} {p : WaitPoint} (hw : s.waiting = some p) (hr : s.pins.rst = false) :
    step s = thenNext (resume p s) hostTurn := by
  simp [step, hw, hr]

/-- With `rst` high an operation in progress is reset. -/
theorem step_of_waiting_rst {s : State} {p : WaitPoint} (hw : s.waiting = some p) (hr : s.pins.rst = true) :
    step s = hostTurn (resetInProgress p s) := by
  simp [step, hw, hr]

/-- The reset of an operation in progress is the hardware reset of the state that resuming it answers, or of the state
itself. -/
theorem resetInProgress_cases (p : WaitPoint) (s : State) :
    (∃ t, resume p s = .next t ∧ resetInProgress p s = hardwareReset t) ∨
      ((∀ t, resume p s ≠ .next t) ∧ resetInProgress p s = hardwareReset s) := by
  unfold resetInProgress
  cases resume p s <;> simp

/-- With no operation in progress and `rst` low a step executes the fetched operation. -/
theorem step_of_fetch {s : State} {i : Instr} (hw : s.waiting = none) (hr : s.pins.rst = false) (hf : fetch s = .ok i) :
    step s = thenNext (exec i s) hostTurn := by
  simp [step, hw, hr, hf]

/-- With no operation in progress and `rst` high a step is a hardware reset. -/
theorem step_of_rst {s : State} (hw : s.waiting = none) (hr : s.pins.rst = true) :
    step s = hostTurn (hardwareReset s) := by
  simp [step, hw, hr]

/-- A state with no operation in progress is unchanged by saying so. -/
theorem waiting_none {s : State} (h : s.waiting = none) : { s with waiting := none } = s := by
  cases s
  simp_all

/-- With no word at a port the phase register selects the operation. -/
theorem fetch_of_portsIdle {s : State} (h : PortsIdle s) : fetch s = .ok (Phase.instr (glitchSelect s) s.ph) := by
  simp only [fetch, fetchWord, h.1, h.2, decode]
  cases s.ph <;> rfl

end Sys2Proof.Machine
end

