-- ==== Sys2Proof/Laws/Resume.lean ====
section
/-! SUPPORT. What an operation in progress leaves alone when it goes on, and what its reset does. -/

namespace Sys2Proof.Machine

/-- What the core does not own, and no operation of it changes, is the same in the two states. -/
structure SameOutside (s u : State) : Prop where
  mem : u.mem = s.mem
  ended : u.ended = s.ended
  params : u.params = s.params
  pins : u.pins = s.pins
  script : u.script = s.script

/-- The two states agree on what the core does not own. -/
theorem sameOutside_self (s : State) : SameOutside s s := ⟨rfl, rfl, rfl, rfl, rfl⟩

/-- A change of what the core owns leaves the rest. -/
theorem SameOutside.of_eq {s u v : State} (h : SameOutside s u)
    (hv : v.mem = u.mem ∧ v.ended = u.ended ∧ v.params = u.params ∧ v.pins = u.pins ∧ v.script = u.script) :
    SameOutside s v := by
  obtain ⟨h1, h2, h3, h4, h5⟩ := hv
  exact ⟨h1.trans h.mem, h2.trans h.ended, h3.trans h.params, h4.trans h.pins, h5.trans h.script⟩

variable {s u : State}

theorem endOfData_sameOutside (h : SameOutside s u) : (endOfData u).All (SameOutside s) := by
  unfold endOfData
  split
  · exact h.of_eq (by simp)
  · exact h

theorem onSample_sameOutside {r : Res} (h : r.All (SameOutside s)) : (onSample u r).All (SameOutside s) := by
  unfold onSample
  split <;> simp [h]

theorem query_sameOutside (h : SameOutside s u) : (query u).All (SameOutside s) :=
  onSample_sameOutside (h.of_eq (by simp))

theorem advEdge_sameOutside (h : SameOutside s u) : (advEdge u).All (SameOutside s) := by
  refine onSample_sameOutside ?_
  split
  · exact h.of_eq (by simp)
  · exact endOfData_sameOutside h

theorem peekEdge_sameOutside (h : SameOutside s u) : (peekEdge u).All (SameOutside s) := by
  refine onSample_sameOutside ?_
  split
  · exact h.of_eq (by simp)
  · exact endOfData_sameOutside h

theorem advBy_sameOutside (n : BitVec 32) (h : SameOutside s u) : (advBy n u).All (SameOutside s) := by
  refine onSample_sameOutside ?_
  split
  · exact h.of_eq (by simp)
  · split
    · simp
    · exact endOfData_sameOutside h

/-- Marking the point of a wait changes nothing the core does not own. -/
theorem waitingAt_sameOutside {r : Res} (p : WaitPoint) (h : r.All (SameOutside s)) :
    (r.waitingAt p).All (SameOutside s) :=
  h.waitingAt fun _ hu => hu.of_eq (by simp)

theorem measureLow_sameOutside (h : SameOutside s u) : (measureLow u).All (SameOutside s) :=
  (waitingAt_sameOutside _ (peekEdge_sameOutside h)).andThen fun _ ht => ht.of_eq (by simp)

theorem measureFromRise_sameOutside (h : SameOutside s u) : (measureFromRise u).All (SameOutside s) :=
  (waitingAt_sameOutside _ (advEdge_sameOutside h)).andThen fun _ ht =>
    (query_sameOutside ht).andThen fun _ hv => measureLow_sameOutside (hv.of_eq (by simp))

theorem riseFromCursor_sameOutside (h : SameOutside s u) : (riseFromCursor u).All (SameOutside s) :=
  (query_sameOutside h).andThen fun _ ht => ht.of_eq (by simp)

theorem measureFromLow_sameOutside (h : SameOutside s u) : (measureFromLow u).All (SameOutside s) :=
  (waitingAt_sameOutside _ (advEdge_sameOutside h)).andThen fun _ ht =>
    (riseFromCursor_sameOutside ht).andThen fun _ => measureFromRise_sameOutside

theorem mergeHighPulse_sameOutside (h : SameOutside s u) : (mergeHighPulse u).All (SameOutside s) :=
  (waitingAt_sameOutside _ (advEdge_sameOutside h)).andThen fun _ ht =>
    (query_sameOutside ht).andThen fun _ hv => measureLow_sameOutside (hv.of_eq (by simp))

theorem readCheckpoint_sameOutside (h : SameOutside s u) : (readCheckpoint u).All (SameOutside s) :=
  (waitingAt_sameOutside _ (advBy_sameOutside _ h)).andThen fun _ ht => by
    split <;> exact ht.of_eq (by simp)

theorem readSamplePoint_sameOutside (h : SameOutside s u) : (readSamplePoint u).All (SameOutside s) :=
  (waitingAt_sameOutside _ (advBy_sameOutside _ h)).andThen fun _ ht => by
    split <;> exact ht.of_eq (by simp)

/-- What is left of an operation changes nothing the core does not own. -/
theorem rest_sameOutside (p : WaitPoint) (h : SameOutside s u) : (rest p u).All (SameOutside s) := by
  cases p with
  | risingEdge => exact measureFromLow_sameOutside h
  | fallingEdge => exact measureFromRise_sameOutside h
  | lowPulseEnd => exact measureLow_sameOutside h
  | spikeEnd => exact (waitingAt_sameOutside _ (advEdge_sameOutside h)).andThen fun _ => mergeHighPulse_sameOutside
  | mergedPulseEnd => exact mergeHighPulse_sameOutside h
  | checkpoint => exact readCheckpoint_sameOutside h
  | samplePoint => exact readSamplePoint_sameOutside h
  | resetEnd =>
    exact (waitingAt_sameOutside _ (advEdge_sameOutside h)).andThen fun _ ht => ht.of_eq (by simp)

/-- An operation in progress that goes on changes nothing the core does not own. -/
theorem resume_sameOutside {p : WaitPoint} {t : State} (h : resume p s = .next t) : SameOutside s t :=
  (rest_sameOutside p ((sameOutside_self s).of_eq (by simp))).finish (fun _ hu => hu.of_eq (by simp)) h

/-- The reset of an operation in progress changes nothing the core does not own but the cursor and the sink, which are as the
operation leaves them. -/
theorem resetInProgress_sameOutside (p : WaitPoint) (s : State) : SameOutside s (resetInProgress p s) := by
  rcases resetInProgress_cases p s with ⟨t, ht, h⟩ | ⟨_, h⟩ <;> rw [h]
  · exact (resume_sameOutside ht).of_eq (by simp)
  · exact (sameOutside_self s).of_eq (by simp)

end Sys2Proof.Machine
end

