-- ==== Sys2Proof/Tests/Slice0.lean ====
section
/-! SUPPORT. Tests: well-formedness, the words of every operation written out from the spec, one step of every operation
on data of 95_test_vectors.md, and a state that meets the hypotheses of each statement. -/

namespace Sys2Proof.Tests

open Sys2Proof Sys2Proof.Machine

/-! ## Well-formedness: each check refuses an ill-formed frame -/

theorem test_wf_data_value_of_17_bits :
    (Instr.frame 0 0 .data 0x10000 false).wellFormed = false ∧ (Instr.frame 0 0 .data 0xFFFF false).wellFormed = true := by
  decide

theorem test_wf_crc_value_of_9_bits :
    (Instr.frame 0 0 .crc 0x100 false).wellFormed = false ∧ (Instr.frame 0 0 .crc 0xFF false).wellFormed = true := by
  decide

theorem test_wf_restart_value_not_zero :
    (Instr.frame 0 0 .restart 1 false).wellFormed = false ∧ (Instr.frame 0 0 .restart 0 true).wellFormed = true := by
  decide

theorem test_wf_warning_on_a_field_frame :
    (Instr.frame 0 0 .command 0 true).wellFormed = false ∧
    (Instr.frame 0 0 .command 0xFFFFFFFFFFFF false).wellFormed = true := by
  decide

/-! ## Decoding: words written out from 45_decode_loop.md R130, 30_encoding.md R65, R66, R68 and the packing vectors -/

theorem test_decode_idle : decodeTableWord 4 0b0000 = some .idle := by decide
theorem test_decode_start : decodeTableWord 4 0b0001 = some .start := by decide
theorem test_decode_measure : decodeTableWord 4 0b0010 = some .measure := by decide
theorem test_decode_gfHigh : decode .high (.phase 0b0011) = .ok .gfHigh := by decide
theorem test_decode_gfLow : decode .low (.phase 0b0011) = .ok .gfLow := by decide
theorem test_decode_gfPass : decodeTableWord 4 0b0011 = some .gfPass := by decide
theorem test_decode_gapchk : decodeTableWord 4 0b0100 = some .gapchk := by decide
theorem test_decode_gapflush : decodeTableWord 4 0b0101 = some .gapflush := by decide
theorem test_decode_rstchk : decodeTableWord 4 0b0110 = some .rstchk := by decide
theorem test_decode_rstacc : decodeTableWord 4 0b0111 = some .rstacc := by decide
theorem test_decode_rstre : decodeTableWord 4 0b1000 = some .rstre := by decide
theorem test_decode_chkpt : decodeTableWord 4 0b1001 = some .chkpt := by decide
theorem test_decode_spoint : decodeTableWord 4 0b1010 = some .spoint := by decide
theorem test_decode_asm : decodeTableWord 4 0b1011 = some .asm := by decide
theorem test_decode_emit : decodeTableWord 4 0b1100 = some .emit := by decide
theorem test_decode_progress : decodeTableWord 4 0b1101 = some .progress := by decide
theorem test_decode_cancelchk : decodeTableWord 4 0b1110 = some .cancelchk := by decide
theorem test_decode_halt : decodeTableWord 4 0b1111 = some .halt := by decide

theorem test_decode_query : decodeTableWord 34 0b00000000000000000000000000000000_00 = some .query := by decide
theorem test_decode_advEdge : decodeTableWord 34 0b00000000000000000000000000000000_01 = some .advEdge := by decide
theorem test_decode_peekEdge : decodeTableWord 34 0b00000000000000000000000000000000_10 = some .peekEdge := by decide
theorem test_decode_advBy_30 : decodeTableWord 34 0b00000000000000000000000000011110_11 = some (.advBy 30) := by decide
theorem test_decode_advBy_199 : decodeTableWord 34 0x31F = some (.advBy 199) := by decide
theorem test_decode_advBy_top :
    decodeTableWord 34 0b10000000000000000000000000000000_11 = some (.advBy 0x80000000) := by decide

/-- `FRAME 1400 2200 Restart 0x0 w=1` -/
theorem test_decode_frame_restart_warning :
    decodeTableWord 181 0x10000000000000000000000000226000000000000015E0 = some (.frame 1400 2200 .restart 0 true) := by
  decide

/-- `FRAME 1400 4440 Data 0xABCD w=0` -/
theorem test_decode_frame_data :
    decodeTableWord 181 0xABCD4000000000000456000000000000015E0 = some (.frame 1400 4440 .data 0xABCD false) := by
  decide

/-- `FRAME 4600 14120 Command 0x123456789AB w=0` -/
theorem test_decode_frame_command :
    decodeTableWord 181 0x123456789AB8000000000000DCA000000000000047E0 =
      some (.frame 4600 14120 .command 0x123456789AB false) := by
  decide

/-- `FRAME 14200 15720 CRC 0x5A w=0` -/
theorem test_decode_frame_crc :
    decodeTableWord 181 0x5AC000000000000F5A0000000000000DDE0 = some (.frame 14200 15720 .crc 0x5A false) := by
  decide

theorem test_decode_commit : decodeTableWord 181 0b01 = some .commit := by decide

theorem test_decode_marker_start : decodeTableWord 181 0x40000000000002582 = some (.marker 2400 .start) := by decide
theorem test_decode_marker_one : decodeTableWord 181 0x100000000000002672 = some (.marker 2460 .one) := by decide
theorem test_decode_marker_zero : decodeTableWord 181 0xC0000000000002992 = some (.marker 2660 .zero) := by decide
theorem test_decode_marker_invalid : decodeTableWord 181 0x165A = some (.marker 1430 .invalid) := by decide
theorem test_decode_marker_downArrow : decodeTableWord 181 0x80000000000000322 = some (.marker 200 .downArrow) := by
  decide

theorem test_decode_progressRec : decodeTableWord 181 0x12C3 = some (.progressRec 1200) := by decide

/-- 30_encoding.md R71 (a), (b), (c), and a bit above the record's top bit. -/
theorem test_decode_reserved :
    decodeTableWord 34 0b100 = none ∧ decodeTableWord 34 0b101 = none ∧ decodeTableWord 34 0b110 = none ∧
    decodeTableWord 181 (5 * 2 ^ 66 + 2) = none ∧ decodeTableWord 181 (7 * 2 ^ 66 + 2) = none ∧
    decodeTableWord 181 (2 ^ 69 + 2) = none ∧ decodeTableWord 181 0b101 = none ∧
    decodeTableWord 181 (2 ^ 66 + 3) = none ∧ decodeTableWord 4 0b10000 = none ∧
    decodeTableWord 34 (2 ^ 34) = none ∧ decodeTableWord 181 (2 ^ 181) = none := by
  decide

/-- The `CUR_RSP` and `CFG` words of 95_test_vectors.md. -/
theorem test_port_words :
    (CurRsp.mk 1399 .high true).pack = 0x30000000000000577 ∧
    CurRsp.unpack 0x10000000000000898 = { sample := 2200, level := .high, eos := false } ∧
    Pins.cfgWord { Pins.low with sampleRateHz := 1999999, channelValid := true } = 0x2001E847F ∧
    Pins.cfgWord { Pins.low with sampleRateHz := 2000000, channelValid := true, forceOverdrive := true } =
      0x3001E8480 := by
  decide

/-! ## Numbers of TimingModel and classify -/

/-- V2, V6. -/
theorem test_thresholds_at_2500000 :
    thresholds Params.ref 2500000 =
      { tFloor := 25, tChk := 37, tSp := 75, tStdMin := 950, tStdNom := 1200, tOvdMin := 100, tOvdNom := 120,
        tOvdMax := 220, tGap := 2500 } ∧
    usToSamples (2 ^ 32 - 1) (2 ^ 32 - 1) = 18446744065119 := by
  decide

/-- S1: the round trip at 3 MHz and at 1 Hz. -/
theorem test_round_trip :
    samplesToUs 3000000 5 = 1 ∧ usToSamples 3000000 1 = 3 ∧ samplesToUs 1 7 = 7000000 ∧ usToSamples 1 7000000 = 7 := by
  decide

/-- The thresholds of the vectors: `REF` at 2 MHz. -/
def thr2 : Thresholds := thresholds Params.ref 2000000

/-- V16, the boundaries of the class. -/
theorem test_classify :
    classify thr2 760 false = .notReset ∧ classify thr2 761 false = .resetStandard ∧
    classify thr2 80 true = .notReset ∧ classify thr2 81 true = .resetOverdrive ∧
    classify thr2 175 true = .resetOverdrive ∧ classify thr2 176 true = .notReset := by
  decide

/-- V16, the warning. -/
theorem test_warning :
    resetWarning thr2 959 false = true ∧ resetWarning thr2 960 false = false ∧ resetWarning thr2 81 true = false := by
  decide

/-! ## One step of each operation, on the data of the vectors -/

/-- The configuration of the vectors: 2 MHz, channel valid. -/
def pins2 : Pins := { Pins.low with start := true, sampleRateHz := 2000000, channelValid := true }

/-- A state in a run of the vectors: `rs` from index 0, the cursor at `pos`, in phase `ph`. -/
def at2 (ph : Phase) (pos : Index) (rs : Stimulus) : State :=
  { State.reset with
    ph := ph, pos := pos, mem := (stimulusMemory 0 rs).getD Memory.single, pins := pins2
    cfgRate := 2000000, thr := thr2 }

/-- What a test looks at in the result of an operation. -/
def after (o : Out) (p : State → Bool) : Bool :=
  match o with
  | .next s => p s
  | .fault _ => false
  | .refused _ => false

/-- The waveform of P1. -/
def p1 : Stimulus :=
  [(.high, 200), (.low, 1000), (.high, 200), (.low, 800), (.high, 200), (.low, 40), (.high, 160), (.low, 120), (.high, 80)]

theorem test_idle :
    after (exec .idle (at2 .idle 0 p1)) (fun t => t.ph == .start) = true ∧
    after (exec .idle State.reset) (fun t => t.ph == .idle) = true := by decide

theorem test_start :
    after (exec .start (at2 .start 7 p1)) (fun t => t.ph == .measure && t.rise == 7 && t.thr == thr2 && t.sink == []) =
      true := by
  decide

/-- V29: rate 1 999 999. -/
theorem test_start_rejects :
    after (exec .start { at2 .start 0 p1 with pins := { pins2 with sampleRateHz := 1999999 } })
      (fun t => t.ph == .halt && t.haltReason == .configurationError && t.curRsp == State.reset.curRsp) = true := by
  decide

/-- P1, first pulse pair. -/
theorem test_measure_high :
    after (exec .measure (at2 .measure 0 p1))
      (fun t => t.fall == 200 && t.highW == 200 && t.rise == 1200 && t.lowW == 1000 && t.pos == 200) = true := by
  decide

/-- V15: a start inside a low period. -/
theorem test_measure_low :
    after (exec .measure (at2 .measure 0 [(.low, 300), (.high, 200), (.low, 1000), (.high, 200)]))
      (fun t => t.fall == 500 && t.highW == 200 && t.rise == 1500 && t.lowW == 1000) = true := by
  decide

/-- V13: a first high pulse of 10 samples. -/
theorem test_gfHigh :
    after (exec .gfHigh { at2 .glitch 10 [(.high, 10), (.low, 1000), (.high, 200), (.low, 1000), (.high, 200)] with
        fall := 10, highW := 10, rise := 1010, lowW := 1000 })
      (fun t => t.fall == 1210 && t.highW == 200 && t.rise == 2210 && t.sink == [.marker 10 .invalid]) = true := by
  decide

/-- V9: the low spike at 1700 between two high pulses of 60 and 94 samples. -/
theorem test_gfLow :
    after (exec .gfLow { at2 .glitch 260 [(.high, 200), (.low, 60), (.high, 60), (.low, 6), (.high, 94), (.low, 120),
          (.high, 80)] with
        pos := 320, fall := 320, highW := 60, rise := 326, lowW := 6 })
      (fun t => t.highW == 160 && t.fall == 420 && t.lowW == 120 && t.sink == [.marker 320 .invalid]) = true := by
  decide

theorem test_gfPass :
    after (exec .gfPass { at2 .glitch 200 p1 with defer := true }) (fun t => t.ph == .gapchk && !t.defer) = true ∧
    after (exec .gfPass { at2 .glitch 200 p1 with st := .decoding }) (fun t => t.ph == .rstchk) = true := by
  decide

/-- V24: 2000 is not a gap, 2001 is. -/
theorem test_gapchk :
    after (exec .gapchk { at2 .gapchk 0 p1 with fall := 2000, highW := 2000 })
      (fun t => t.ph == .rstchk && t.sink == [.marker 2000 .downArrow]) = true ∧
    after (exec .gapchk { at2 .gapchk 0 p1 with fall := 2001, highW := 2001 })
      (fun t => t.ph == .gapflush && t.sink == [.marker 2001 .start] && t.st == .newTransactionGap) = true := by
  decide

theorem test_gapflush :
    after (exec .gapflush (at2 .gapflush 200 p1))
      (fun t => t.sink == [.commit] && t.layer == .data && t.st == .decoding && t.ph == .rstchk) = true := by
  decide

/-- V17: 760 is no reset, 761 one with a warning. -/
theorem test_rstchk :
    after (exec .rstchk { at2 .rstchk 200 p1 with lowW := 760 }) (fun t => t.ph == .chkpt && !t.rstWarn) = true ∧
    after (exec .rstchk { at2 .rstchk 200 p1 with lowW := 761 }) (fun t => t.ph == .rstacc && t.rstWarn) = true := by
  decide

/-- P1, second reset pulse; the overdrive flag of S5 is cleared. -/
theorem test_rstacc :
    after (exec .rstacc { at2 .rstacc 1400 p1 with fall := 1400, rise := 2200, lowW := 800, rstWarn := true,
                                                   overdrive := true })
      (fun t => t.sink == [.commit, .frame 1400 2200 .restart 0 true] && t.pos == 2200 && !t.overdrive) = true := by
  decide

theorem test_rstre :
    after (exec .rstre { at2 .rstre 1200 p1 with layer := .crc, bits := 5, acc := 21 })
      (fun t => t.layer == .data && t.bits == 0 && t.acc == 0 && t.defer && t.ph == .progress) = true := by
  decide

/-- V19: a low pulse of 30 samples is High at the checkpoint, one of 31 is not. -/
theorem test_chkpt :
    after (exec .chkpt { at2 .chkpt 1400 [(.high, 1400), (.low, 30), (.high, 170)] with fall := 1400 })
      (fun t => t.sink == [.marker 1430 .invalid] && t.ph == .progress) = true ∧
    after (exec .chkpt { at2 .chkpt 1400 [(.high, 1400), (.low, 31), (.high, 169)] with fall := 1400 })
      (fun t => t.sink == [] && t.ph == .spoint && t.pos == 1430) = true := by
  decide

/-- V19: 60 reads 1, 61 reads 0. -/
theorem test_spoint :
    after (exec .spoint (at2 .spoint 1430 [(.high, 1400), (.low, 60), (.high, 140)]))
      (fun t => t.sink == [.marker 1460 .one] && t.bit) = true ∧
    after (exec .spoint (at2 .spoint 1430 [(.high, 1400), (.low, 61), (.high, 139)]))
      (fun t => t.sink == [.marker 1460 .zero] && !t.bit) = true := by
  decide

/-- V21: the fourth bit of 1, 0, 1, 1; and the sixteenth of a Data field. -/
theorem test_asm :
    after (exec .asm { at2 .asm 0 p1 with layer := .data, bits := 3, acc := 5, bit := true, fall := 2000, fieldStart := 1400 })
      (fun t => t.acc == 0xD && t.bits == 4 && t.fieldStart == 1400 && t.ph == .progress) = true ∧
    after (exec .asm { at2 .asm 0 p1 with layer := .data, bits := 15, acc := 0x2BCD, bit := true })
      (fun t => t.acc == 0xABCD && t.bits == 16 && t.ph == .emit) = true := by
  decide

/-- S2: the Data frame. -/
theorem test_emit :
    after (exec .emit { at2 .emit 0 p1 with layer := .data, bits := 16, acc := 0xABCD, fieldStart := 1400, rise := 4440 })
      (fun t => t.sink == [.frame 1400 4440 .data 0xABCD false] && t.layer == .command && t.bits == 0 && t.acc == 0) =
      true := by
  decide

theorem test_progress :
    after (exec .progress (at2 .progress 1200 p1)) (fun t => t.sink == [.progress 1200] && t.ph == .cancelchk) = true := by
  decide

/-- V28. -/
theorem test_cancelchk :
    after (exec .cancelchk { at2 .cancelchk 1200 p1 with pins := { pins2 with cancel := true } })
      (fun t => t.ph == .halt && t.haltReason == .cancelled && t.sink == []) = true ∧
    after (exec .cancelchk (at2 .cancelchk 1200 p1)) (fun t => t.ph == .measure) = true := by
  decide

theorem test_halt : after (exec .halt (at2 .halt 5 p1)) (fun t => t == at2 .halt 5 p1) = true := by decide

/-- Rows 1, 2, 3 of the cursor command table. -/
theorem test_query_peek_adv :
    after (exec .query (at2 .idle 0 p1)) (fun t => t.curRsp.pack == 0x10000000000000000) = true ∧
    after (exec .peekEdge (at2 .idle 0 p1)) (fun t => t.curRsp.pack == 0x100000000000000C8 && t.pos == 0) = true ∧
    after (exec .advEdge (at2 .idle 0 p1)) (fun t => t.curRsp.pack == 0xC8 && t.pos == 200) = true := by
  decide

/-- Rows 7, 8, 10 of the cursor command table. -/
theorem test_advBy_and_end_of_stream :
    after (exec (.advBy 199) (at2 .idle 1200 [(.high, 200), (.low, 1000), (.high, 200)]))
      (fun t => t.curRsp.pack == 0x10000000000000577) = true ∧
    after (exec (.advBy 1) (at2 .idle 1399 [(.high, 200), (.low, 1000), (.high, 200)]))
      (fun t => t.curRsp.pack == 0x30000000000000577 && t.pos == 1399) = true ∧
    after (exec .advEdge (at2 .idle 1399 [(.high, 200), (.low, 1000), (.high, 200)]))
      (fun t => t.curRsp.pack == 0x30000000000000577) = true := by
  decide

theorem test_sink_records :
    after (exec (.frame 1 2 .crc 3 false) State.reset) (fun t => t.sink == [.frame 1 2 .crc 3 false]) = true ∧
    after (exec .commit State.reset) (fun t => t.sink == [.commit]) = true ∧
    after (exec (.marker 4 .one) State.reset) (fun t => t.sink == [.marker 4 .one]) = true ∧
    after (exec (.progressRec 5) State.reset) (fun t => t.sink == [.progress 5]) = true := by
  decide

/-- A posted record word is executed by the next step and leaves its port. -/
theorem test_step_of_a_posted_word :
    after (step (State.reset.withFetchWord 181 0x12C3)) (fun t => t.sink == [.progress 1200] && t.snkWord == none) = true ∧
    after (step (State.reset.withFetchWord 4 8)) (fun t => t.ph == .progress && t.defer) = true := by
  decide

/-- `rst` raised while MEASURE waits for samples ends the wait (70_reset_and_hazards.md R178); where the samples are there
the operation completes and the reset replaces its result (R170), the cursor staying on the falling edge. -/
theorem test_rst_while_an_operation_waits :
    after (step { at2 .measure 100 [(.high, 200)] with params := { Params.ref with stream := .live } })
      (fun t => t.waiting == some .fallingEdge && t.ph == .measure && t.sink == []) = true ∧
    after (step { at2 .measure 100 [(.high, 200)] with
        params := { Params.ref with stream := .live }, waiting := some .fallingEdge,
        pins := { pins2 with rst := true } })
      (fun t => t.waiting == none && t.ph == .idle && t.pos == 100) = true ∧
    after (step { at2 .measure 100 [(.high, 200), (.low, 100), (.high, 10)] with
        params := { Params.ref with stream := .live }, waiting := some .fallingEdge,
        pins := { pins2 with rst := true } })
      (fun t => t.waiting == none && t.ph == .idle && t.pos == 200 && t.fall == 0) = true := by
  decide

/-- A live stream that the host ends while MEASURE waits (70_reset_and_hazards.md R178). -/
theorem test_end_of_a_live_stream :
    after (step { at2 .measure 100 [(.high, 200)] with
        params := { Params.ref with stream := .live }
        script := [{ pins := none, capture := none, deliver := none, ends := true }] })
      (fun t => t.waiting == some .fallingEdge && t.ended &&
        after (step t) (fun u => u.ph == .halt && u.haltReason == .streamExhausted && u.pos == 100)) = true := by
  decide

/-- The low spike of V9 on a live stream that ends inside it: the marker is sent at once, and when the samples are there
GF_LOW ends as on the whole stream. -/
theorem test_gfLow_waits_and_goes_on :
    after (exec .gfLow { at2 .glitch 320 [(.high, 200), (.low, 60), (.high, 60), (.low, 3)] with
        params := { Params.ref with stream := .live }, fall := 320, highW := 60 })
      (fun t => t.waiting == some .spikeEnd && t.sink == [.marker 320 .invalid] && t.pos == 320) = true ∧
    after (resume .spikeEnd { at2 .glitch 320 [(.high, 200), (.low, 60), (.high, 60), (.low, 6), (.high, 94), (.low, 120),
          (.high, 80)] with
        params := { Params.ref with stream := .live }, fall := 320, highW := 60, waiting := some .spikeEnd })
      (fun t => t.waiting == none && t.highW == 160 && t.fall == 420 && t.lowW == 120 && t.sink == []) = true := by
  decide

/-- 30_encoding.md R74: a trace line; R72: the export text. -/
theorem test_trace_text :
    (Record.frame 1400 4440 .data 0xABCD false).line = "FRAME 1400 4440 Data 0xABCD w=0" ∧
    resetText true = "Reset Pulse ( out of spec )" := by
  decide

/-! ## States that meet the hypotheses of the statements

A small machine: 1 MHz, so that one microsecond is one sample. `T_FLOOR 2, T_CHK 3, T_SP 6, T_STD_MIN 16, T_STD_NOM 20,
T_OVD_MIN 6, T_OVD_MAX 12, T_GAP 30`. -/

/-- The parameter record of the small machine. -/
def smallParams : Params where
  resetPulseUs := 20
  resetMarginInUs := 4
  overdriveResetPulseUs := 8
  overdriveMarginInUs := 2
  overdriveMaxResetUs := 10
  overdriveMarginOutUs := 2
  sampleCheckpointUs := 3
  samplePointUs := 6
  minPulseUs := 2
  longGapUs := 30
  minSampleRateHz := 1000000
  overdriveInit := .followForce
  stream := .finite

def smallPins : Pins := { Pins.low with start := true, sampleRateHz := 1000000, channelValid := true }

/-- High 0 to 9, Low 10 to 19, High 20 to 29, Low 30 to 39, High 40 to 49. -/
def wave : Memory := { base := 0, stop := 50, first := .high, edges := [10, 20, 30, 40] }

/-- A state of a run of the small machine. -/
def small (ph : Phase) (pos : Index) : State :=
  { State.reset with
    ph := ph, pos := pos, mem := wave, pins := smallPins, params := smallParams
    cfgRate := 1000000, thr := thresholds smallParams 1000000 }

/-- The same on a live stream. -/
def live (s : State) : State := { s with params := { s.params with stream := .live } }

/-- The small machine with the pulse pair at 10 measured. -/
def onPulse (ph : Phase) : State :=
  { small ph 10 with fall := 10, rise := 20, highW := 10, lowW := 10 }

/-- The small machine with a low pulse from 10 to 29 measured, longer than `T_STD_MIN`. -/
def onReset (ph : Phase) : State :=
  { small ph 10 with
    mem := { base := 0, stop := 50, first := .high, edges := [10, 30] }
    fall := 10, rise := 30, highW := 10, lowW := 20 }

/-- The small machine where the waveform ends in the low pulse after the cursor: one edge left. -/
def oneEdgeLeft (ph : Phase) : State := small ph 35

/-- The small machine where no edge is left. -/
def noEdgeLeft (ph : Phase) (pos : Index) : State :=
  { small ph pos with mem := { base := 0, stop := 50, first := .high, edges := [10] } }

/-- The small machine in a low period with two edges left. -/
def twoEdgesLeft (ph : Phase) : State :=
  { small ph 15 with mem := { base := 0, stop := 50, first := .high, edges := [10, 20, 30] } }

/-- What a decided test on an outcome says. -/
theorem after_next {o : Out} {p : State → Bool} (h : after o p = true) : ∃ t, o = .next t ∧ p t = true := by
  cases o with
  | next s => exact ⟨s, rfl, h⟩
  | fault f => cases h
  | refused f => cases h

/-- The invariant, part by part. -/
def runInvCheck (s : State) : Bool :=
  decide (MemoryInv s) && decide (ControlInv s) && (s.measuring || decide (CursorInv s)) && decide (ConfigInv s) && decide (PortsIdle s) &&
  decide (WaitInv s)

theorem runInv_of {s : State} (h : runInvCheck s = true) : RunInv s := by
  simp only [runInvCheck, Bool.and_eq_true, Bool.or_eq_true, decide_eq_true_eq] at h
  exact ⟨h.1.1.1.1.1, h.1.1.1.1.2, fun hm => h.1.1.1.2.resolve_left (by simp [hm]), h.1.1.2, h.1.2, h.2⟩

theorem runInv_measure : RunInv (small .measure 0) := runInv_of (by decide)
theorem runInv_live_measure : RunInv (live (small .measure 0)) := runInv_of (by decide)
/-- The small machine on a live stream, GF_LOW waiting at its first cursor command. -/
def waitingInGlitch : State :=
  { live (onPulse .glitch) with
    mem := { base := 0, stop := 15, first := .high, edges := [10] }, waiting := some .spikeEnd }

theorem runInv_waitingInGlitch : RunInv waitingInGlitch := runInv_of (by decide)
theorem runInv_glitch : RunInv (onPulse .glitch) := runInv_of (by decide)
theorem runInv_chkpt : RunInv (onPulse .chkpt) := runInv_of (by decide)
theorem runInv_rstchk : RunInv (onReset .rstchk) := runInv_of (by decide)
theorem runInv_start : RunInv (small .start 0) := runInv_of (by decide)
theorem runInv_cancelchk : RunInv (small .cancelchk 0) := runInv_of (by decide)

/-- A field in progress: five bits of a Command. -/
def fieldInProgress : State := { onReset .rstchk with st := .decoding, layer := .command, bits := 5, acc := 21 }

theorem runInv_fieldInProgress : RunInv fieldInProgress := runInv_of (by decide)

/-- A Data field filled, about to be sent. -/
def fieldFilled : State := { small .emit 26 with rise := 20, fall := 10, st := .decoding, layer := .data, bits := 16, acc := 0xABCD }

theorem runInv_fieldFilled : RunInv fieldFilled := runInv_of (by decide)

theorem witness_DecodeOfEncodeIsIdentity :
    (Instr.gfHigh.phase? = some .glitch → GlitchSel.high = Instr.gfHigh.glitchSel) ∧
    (Instr.gfLow.phase? = some .glitch → GlitchSel.low = Instr.gfLow.glitchSel) ∧
    ((Instr.frame 1 2 .data 0x10000 true).phase? = some .glitch →
      GlitchSel.high = (Instr.frame 1 2 .data 0x10000 true).glitchSel) := by
  decide

theorem witness_EncodeOfDecodeIsTheWord :
    decode .low (.phase 3) = .ok .gfLow ∧ decode .pass (.curCmd 0x3FFFFFFFF) = .ok (.advBy 0xFFFFFFFF) ∧
    decode .pass (.snk 0x165A) = .ok (.marker 1430 .invalid) := by
  decide

theorem witness_ReservedWordsAreRefused :
    ((6 : BitVec 34).extractLsb' 0 2 ≠ 3 ∧ (6 : BitVec 34).extractLsb' 2 32 ≠ 0) ∧
    ((5 : BitVec 181).extractLsb' 0 2 = 1 ∧ (5 : BitVec 181).extractLsb' 2 179 ≠ 0) ∧
    ((BitVec.ofNat 181 (2 ^ 69 + 2)).extractLsb' 0 2 = 2 ∧ (BitVec.ofNat 181 (2 ^ 69 + 2)).extractLsb' 69 112 ≠ 0) ∧
    ((BitVec.ofNat 181 (5 * 2 ^ 66 + 2)).extractLsb' 0 2 = 2 ∧
      (BitVec.ofNat 181 (5 * 2 ^ 66 + 2)).extractLsb' 69 112 = 0 ∧
      5 ≤ ((BitVec.ofNat 181 (5 * 2 ^ 66 + 2)).extractLsb' 66 3).toNat) ∧
    ((BitVec.ofNat 181 (2 ^ 66 + 3)).extractLsb' 0 2 = 3 ∧ (BitVec.ofNat 181 (2 ^ 66 + 3)).extractLsb' 66 115 ≠ 0) := by
  decide

theorem witness_PackedBytesAreLittleEndian :
    natToBytes 3 0x12345 = [0x45, 0x23, 0x01] ∧ 2 < (natToBytes 3 0x12345).length := by decide

theorem witness_StepRunsTheDecodedOperation :
    (small .glitch 0).pins.rst = false ∧ (small .glitch 0).waiting = none ∧ (small .glitch 0).script = [] ∧ PortsIdle (small .glitch 0) ∧
    decode (glitchSelect (small .glitch 0)) (fetchWord (small .glitch 0)) = .ok .gfHigh ∧
    Instr.gfHigh.phase? = some (small .glitch 0).ph ∧ glitchSelect (small .glitch 0) = Instr.gfHigh.glitchSel ∧
    decode (glitchSelect (State.reset.withFetchWord 34 4)) (fetchWord (State.reset.withFetchWord 34 4)) =
      .error .operandOnOtherCommand ∧
    (State.reset.withFetchWord 34 4).waiting = none ∧ waitingInGlitch.waiting = some .spikeEnd ∧
    waitingInGlitch.pins.rst = false ∧ waitingInGlitch.script = [] := by
  decide

/-- Reset while a field is in progress, while an operation waits, and where there is no sample. -/
theorem witness_RstPinResetsTheCore :
    ({ fieldInProgress with pins := { smallPins with rst := true } } : State).pins.rst = true ∧
    ({ fieldInProgress with pins := { smallPins with rst := true } } : State).waiting = none ∧
    ({ fieldInProgress with pins := { smallPins with rst := true } } : State).script = [] ∧
    ({ waitingInGlitch with pins := { smallPins with rst := true } } : State).waiting = some .spikeEnd ∧
    (∃ u, resume .spikeEnd { waitingInGlitch with pins := { smallPins with rst := true } } = .next u ∧
      (u.waiting == some .spikeEnd) = true) ∧
    resume .spikeEnd { waitingInGlitch with pins := { smallPins with rst := true }, pos := 15 } =
      .fault .sampleOutsideData :=
  ⟨by decide, by decide, by decide, by decide, after_next (by decide), rfl⟩

theorem witness_StepKeepsMemoryInvariant :
    MemoryInv (small .measure 49) ∧ ∃ t, step (small .measure 49) = .next t ∧ (t.ph == .halt) = true :=
  ⟨by decide, after_next (by decide)⟩

theorem witness_StepKeepsRunInvariant :
    RunInv (onPulse .glitch) ∧ ∃ t, step (onPulse .glitch) = .next t ∧ (t.ph == .gapchk) = true :=
  ⟨runInv_glitch, after_next (by decide)⟩

theorem witness_StepKeepsFramesFitting :
    RunInv fieldFilled ∧ SinkFits fieldFilled ∧
    ∃ t, step fieldFilled = .next t ∧ (t.sink == [.frame 0 20 .data 0xABCD false]) = true :=
  ⟨runInv_fieldFilled, by decide, after_next (by decide)⟩

theorem witness_MalformedInputNeverStopsARun :
    RunInv (small .measure 0) ∧ admissible (small .measure 0).params = true ∧ (small .measure 0).script = [] ∧
    (small .measure 0).source = .finite ∧
    RunInv (live (small .measure 0)) ∧ admissible (live (small .measure 0)).params = true ∧
    (live (small .measure 0)).script = [] ∧ (live (small .measure 0)).source = .live :=
  ⟨runInv_measure, by decide, by decide, by decide, runInv_live_measure, by decide, by decide, by decide⟩

theorem witness_FiniteRunReachesHalt :
    RunInv (small .measure 0) ∧ admissible (small .measure 0).params = true ∧
    (small .measure 0).source = .finite ∧ (small .measure 0).script = [] ∧
    (small .measure 0).pins.rst = false ∧ (small .measure 0).ph ≠ .idle ∧
    RunInv { waitingInGlitch with ended := true } ∧
    ({ waitingInGlitch with ended := true } : State).source = .finite ∧
    (∃ t, step { waitingInGlitch with script := [{ pins := none, capture := none, deliver := none, ends := true }] } =
      .next t ∧ t.ended = true) :=
  ⟨runInv_measure, by decide, by decide, by decide, by decide, by decide, runInv_of (by decide), by decide,
    after_next (by decide)⟩

theorem witness_PhaseTransitionsAreTheTables :
    RunInv (onPulse .chkpt) ∧ (onPulse .chkpt).pins.rst = false ∧
    ∃ t, step (onPulse .chkpt) = .next t ∧ (t.ph == .spoint) = true :=
  ⟨runInv_chkpt, by decide, after_next (by decide)⟩

theorem witness_OnlyRstEntersIdleOrLeavesHalt :
    WaitInv (small .halt 0) ∧ WaitInv State.reset ∧
    (small .halt 0).pins.rst = false ∧ (State.reset).pins.rst = false ∧
    (∃ t, step (small .halt 0) = .next t ∧ (t.ph == .halt) = true) ∧
    (∃ t, step State.reset = .next t ∧ (t.ph == .idle) = true) :=
  ⟨by decide, by decide, by decide, by decide, after_next (by decide), after_next (by decide)⟩

/-- An operation in progress, in a state of a run. -/
theorem witness_StepKeepsRunInvariant_waiting :
    RunInv waitingInGlitch ∧ ∃ t, step waitingInGlitch = .next t ∧ (t.waiting == some .spikeEnd) = true :=
  ⟨runInv_waitingInGlitch, after_next (by decide)⟩

/-- START without a channel, CANCELCHK with `cancel` high, MEASURE with no edge left. -/
theorem witness_HaltHasThreeWaysIn :
    (RunInv { small .start 0 with pins := { smallPins with channelValid := false } } ∧
      ∃ t, step { small .start 0 with pins := { smallPins with channelValid := false } } = .next t ∧
        (t.ph == .halt) = true) ∧
    (RunInv { small .cancelchk 0 with pins := { smallPins with cancel := true } } ∧
      ∃ t, step { small .cancelchk 0 with pins := { smallPins with cancel := true } } = .next t ∧
        (t.ph == .halt) = true) ∧
    (RunInv (noEdgeLeft .measure 12) ∧ ∃ t, step (noEdgeLeft .measure 12) = .next t ∧ (t.ph == .halt) = true) :=
  ⟨⟨runInv_of (by decide), after_next (by decide)⟩, ⟨runInv_of (by decide), after_next (by decide)⟩,
    ⟨runInv_of (by decide), after_next (by decide)⟩⟩

theorem witness_HaltIsAbsorbing :
    (small .halt 0).ph = .halt ∧ (small .halt 0).pins.rst = false ∧ (small .halt 0).waiting = none ∧ PortsIdle (small .halt 0) ∧
    (small .halt 0).script = [] := by
  decide

/-- A live stream that delivers two more edges while MEASURE runs. -/
def delivering : State :=
  { live (small .measure 0) with script := [{ pins := none, capture := none, deliver := some ([50, 60], 70), ends := false }] }

theorem witness_CursorNeverMovesBack :
    MemoryInv delivering ∧ delivering.pins.rst = false ∧
    ∃ t, step delivering = .next t ∧ (t.busy && t.mem.stop == 70 && t.pos == 10) = true :=
  ⟨by decide, by decide, after_next (by decide)⟩

theorem witness_SamplesNeverChangeDuringARun :
    MemoryInv delivering ∧ delivering.pins.rst = false ∧ delivering.mem.holds 49 = true ∧
    ∃ t, step delivering = .next t ∧ t.busy = true :=
  ⟨by decide, by decide, by decide, after_next (by decide)⟩

theorem witness_SinkIsAppendOnlyAndNeverRead :
    (∃ t, exec .gapflush (onPulse .gapflush) = .next t ∧ (t.sink == [.commit]) = true) ∧
    (∃ t, step (onPulse .gapflush) = .next t ∧ (t.sink == [.commit]) = true) :=
  ⟨after_next (by decide), after_next (by decide)⟩

theorem witness_RecordsComeFromTheirEmitters :
    (∃ t, exec .rstacc (onReset .rstacc) = .next t ∧
      (t.sink == (onReset .rstacc).sink ++ [.commit, .frame 10 30 .restart 0 false]) = true) ∧
    fieldFilled.layer ≠ .unknown ∧
    (∃ t, exec .emit fieldFilled = .next t ∧
      (t.sink == fieldFilled.sink ++ [.frame 0 20 .data 0xABCD false]) = true) ∧
    (∃ t, resume .checkpoint (small .chkpt 17) = .next t ∧
      (t.sink == (small .chkpt 17).sink ++ [.marker 20 .invalid]) = true) :=
  ⟨after_next (by decide), by decide, after_next (by decide), after_next (by decide)⟩

theorem witness_PinsAreSampledOnlyWhereNamed :
    (∃ t, exec .start (small .start 0) = .next t ∧ (t.ph == .measure) = true) ∧
    ({ smallPins with cancel := true, rst := true } : Pins).sampleRateHz = smallPins.sampleRateHz ∧
    ({ smallPins with cancel := true, rst := true } : Pins).forceOverdrive = smallPins.forceOverdrive ∧
    ({ smallPins with cancel := true, rst := true } : Pins).channel = smallPins.channel ∧
    ({ smallPins with cancel := true, rst := true } : Pins).channelValid = smallPins.channelValid ∧
    (∃ t, exec .idle (small .idle 0) = .next t ∧ (t.ph == .start) = true) ∧
    (∃ t, exec .cancelchk (small .cancelchk 0) = .next t ∧ (t.ph == .measure) = true) ∧
    (∃ t, resume .spikeEnd waitingInGlitch = .next t ∧ (t.ph == .glitch) = true) :=
  ⟨after_next (by decide), by decide, by decide, by decide, by decide, after_next (by decide), after_next (by decide),
    after_next (by decide)⟩

theorem witness_ConfigurationIsFrozenAfterStart :
    Instr.measure ≠ .start ∧ (∃ t, exec .measure (small .measure 0) = .next t ∧ (t.ph == .glitch) = true) ∧
    (∃ t, resume .fallingEdge (small .measure 0) = .next t ∧ (t.ph == .glitch) = true) :=
  ⟨by decide, after_next (by decide), after_next (by decide)⟩

theorem witness_OverdriveIsOnlyClearedAfterStart :
    Instr.rstacc ≠ .start ∧
    (∃ t, exec .rstacc { onReset .rstacc with overdrive := true } = .next t ∧
      (t.overdrive != true) = true) ∧
    (onReset .rstacc).thr.tStdMin < (onReset .rstacc).lowW ∧
    (∃ t, exec .rstacc { onReset .rstacc with cfgForce := true } = .next t ∧ t.odEff = true) ∧
    (∃ t, resume .resetEnd (onReset .rstacc) = .next t ∧ (t.ph == .rstre) = true) :=
  ⟨by decide, after_next (by decide), by decide, after_next (by decide), after_next (by decide)⟩

theorem witness_FollowForceFixesTheMode :
    (small .start 0).params.overdriveInit = .followForce ∧
    ((small .start 0).overdrive = true → (small .start 0).cfgForce = true) ∧
    ∃ t, step { small .start 0 with pins := { smallPins with forceOverdrive := true } } = .next t ∧
      (t.overdrive && t.cfgForce) = true :=
  ⟨by decide, by decide, after_next (by decide)⟩

theorem witness_UsToSamplesFitsItsRegister :
    (2 ^ 32 - 1 : Nat) < 2 ^ 32 ∧ (usToIndex 0xFFFFFFFF (2 ^ 32 - 1)).toNat = 18446744065119 := by decide

theorem witness_ConversionRoundTripNeverGains : 0 < 3000000 ∧ usToSamples 3000000 (samplesToUs 3000000 5) = 3 := by
  decide

theorem witness_AdmissibleThresholdsAreOrdered :
    admissible Params.ref = true ∧ (at2 .measure 0 p1).thr = thresholds Params.ref 2000000 ∧
    admissible { Params.ref with samplePointUs := 1000000, sampleCheckpointUs := 1000000 } = true := by
  decide

theorem witness_IdleFollowsTheStartPin :
    (small .idle 0).pins.start = true ∧ State.reset.pins.start = false := by decide

/-- A rate exactly at the floor. -/
theorem witness_StartBuildsTheRunState :
    admissible (small .start 49).params = true ∧ (small .start 49).mem.holds (small .start 49).pos.toNat = true ∧
    (small .start 49).params.minSampleRateHz ≤ (small .start 49).pins.sampleRateHz.toNat ∧
    (small .start 49).pins.channelValid = true := by
  decide

/-- One below the floor; and no channel. -/
theorem witness_StartRejectsABadConfiguration :
    admissible smallParams = true ∧ (999999 : BitVec 32).toNat < smallParams.minSampleRateHz ∧
    ({ smallPins with channelValid := false } : Pins).channelValid = false := by
  decide

theorem witness_StartRefusesAnInadmissibleRecord :
    (small .start 0).mem.holds (small .start 0).pos.toNat = true ∧
    admissible { smallParams with minPulseUs := 2 ^ 32 } = false ∧
    admissible { smallParams with minPulseUs := 2 ^ 32 - 1 } = true := by
  decide

theorem witness_MeasureTakesAPulsePair :
    (MemoryInv (small .measure 9) ∧ (small .measure 9).level = .high ∧ wave.NextEdge 9 10 ∧ wave.NextEdge 10 20) ∧
    (MemoryInv (small .measure 19) ∧ (small .measure 19).level = .low ∧ wave.NextEdge 19 20 ∧ wave.NextEdge 20 30 ∧
      wave.NextEdge 30 40) := by
  decide

/-- One edge is left after 9, and two after 9 in the second waveform. -/
theorem witness_MeasureStopsWhereTheStreamEnds :
    (MemoryInv (small .measure 40) ∧ (small .measure 40).source = .finite ∧
      (small .measure 40).mem.NoEdge 40) ∧
    (MemoryInv (noEdgeLeft .measure 9) ∧ (noEdgeLeft .measure 9).level = .high ∧
      (noEdgeLeft .measure 9).mem.NextEdge 9 10 ∧ (noEdgeLeft .measure 9).mem.NoEdge 10) ∧
    (MemoryInv (oneEdgeLeft .measure) ∧ (oneEdgeLeft .measure).level = .low ∧
      (oneEdgeLeft .measure).mem.NextEdge 35 40 ∧ (oneEdgeLeft .measure).mem.NoEdge 40) ∧
    (MemoryInv (twoEdgesLeft .measure) ∧ (twoEdgesLeft .measure).level = .low ∧
      (twoEdgesLeft .measure).mem.NextEdge 15 20 ∧ (twoEdgesLeft .measure).mem.NextEdge 20 30 ∧
      (twoEdgesLeft .measure).mem.NoEdge 30) :=
  ⟨by decide, by decide, by decide, by decide⟩

/-- No edge left from a High and a Low cursor; one edge left; two edges left; the cursor three samples before the end, where
`T_CHK` and `T_SP - T_CHK` reach it exactly; and a GF_LOW that waits. -/
theorem witness_LiveStreamMakesTheCoreWait :
    (MemoryInv (live (small .measure 47)) ∧ (live (small .measure 47)).source = .live ∧ wave.NoEdge 47 ∧
      (live (small .measure 47)).level = .high ∧
      wave.stop ≤ (47 : Index).toNat + (3 : BitVec 32).toNat ∧ (47 : Index).toNat + (3 : BitVec 32).toNat < 2 ^ 64 ∧
      checkpointAdvance (live (small .measure 47)) = 3 ∧ samplePointAdvance (live (small .measure 47)) = 3) ∧
    (MemoryInv (live (noEdgeLeft .measure 10)) ∧ (live (noEdgeLeft .measure 10)).level = .low ∧
      (live (noEdgeLeft .measure 10)).mem.NoEdge 10) ∧
    (MemoryInv (live (oneEdgeLeft .measure)) ∧ (live (oneEdgeLeft .measure)).level = .low ∧
      (live (oneEdgeLeft .measure)).mem.NextEdge 35 40 ∧ (live (oneEdgeLeft .measure)).mem.NoEdge 40) ∧
    (MemoryInv (live (noEdgeLeft .measure 9)) ∧ (live (noEdgeLeft .measure 9)).level = .high ∧
      (live (noEdgeLeft .measure 9)).mem.NextEdge 9 10 ∧ (live (noEdgeLeft .measure 9)).mem.NoEdge 10) ∧
    (MemoryInv (live (twoEdgesLeft .glitch)) ∧ (live (twoEdgesLeft .glitch)).level = .low ∧
      (live (twoEdgesLeft .glitch)).mem.NextEdge 15 20 ∧ (live (twoEdgesLeft .glitch)).mem.NextEdge 20 30 ∧
      (live (twoEdgesLeft .glitch)).mem.NoEdge 30) ∧
    ((live (twoEdgesLeft .glitch)).waiting = none ∧
      (live (twoEdgesLeft .glitch)).mem.extends [50, 55] 60 = true) ∧
    (∃ t, exec .gfLow (live (twoEdgesLeft .glitch)) = .next t ∧ (t.waiting == some .lowPulseEnd) = true) :=
  ⟨by decide, by decide, by decide, by decide, by decide, by decide, after_next (by decide)⟩

theorem witness_GfHighDiscardsTheSpike_GfLowMergesTheHighPulse :
    MemoryInv (onPulse .glitch) ∧ (onPulse .glitch).mem.NextEdge 10 20 ∧ (onPulse .glitch).mem.NextEdge 20 30 ∧
    (onPulse .glitch).mem.NextEdge 30 40 := by
  decide

theorem witness_GlitchFilterStopsWhereTheStreamEnds :
    (MemoryInv (noEdgeLeft .glitch 10) ∧ (noEdgeLeft .glitch 10).source = .finite ∧
      (noEdgeLeft .glitch 10).mem.NoEdge 10) ∧
    (MemoryInv (oneEdgeLeft .glitch) ∧ (oneEdgeLeft .glitch).source = .finite ∧
      (oneEdgeLeft .glitch).mem.NextEdge 35 40 ∧ (oneEdgeLeft .glitch).mem.NoEdge 40) ∧
    (MemoryInv (twoEdgesLeft .glitch) ∧ (twoEdgesLeft .glitch).source = .finite ∧
      (twoEdgesLeft .glitch).mem.NextEdge 15 20 ∧ (twoEdgesLeft .glitch).mem.NextEdge 20 30 ∧
      (twoEdgesLeft .glitch).mem.NoEdge 30) := by
  decide

theorem witness_GfPassHandsThePairOn :
    (onPulse .glitch).st = .unknown ∧ fieldInProgress.st ≠ .unknown := by decide

/-- Exactly the threshold, and one above. -/
theorem witness_GapchkTestsTheHighPulse :
    (small .gapchk 10).thr.tGap < (31 : Index) ∧ (30 : Index) ≤ (small .gapchk 10).thr.tGap := by decide

theorem witness_RstchkClassifiesTheLowPulse :
    classify (onPulse .rstchk).thr 16 false = .notReset ∧ classify (onPulse .rstchk).thr 17 false ≠ .notReset ∧
    classify (onPulse .rstchk).thr 7 true ≠ .notReset ∧ classify (onPulse .rstchk).thr 12 true = .notReset := by
  decide

theorem witness_RstaccAcceptsTheReset : MemoryInv (onReset .rstacc) ∧ (onReset .rstacc).mem.NextEdge 10 30 := by decide

theorem witness_ResetPreemptsEverything :
    RunInv fieldInProgress ∧ fieldInProgress.ph = .rstchk ∧ fieldInProgress.pins.rst = false ∧
    fieldInProgress.script = [] ∧
    classify fieldInProgress.thr fieldInProgress.lowW (fieldInProgress.cfgForce || fieldInProgress.overdrive) ≠
      .notReset :=
  ⟨runInv_fieldInProgress, by decide⟩

/-- The checkpoint three samples after the cursor: High at 20, Low at 19, and the last sample of the data. -/
theorem witness_ChkptLooksAtTheCheckpoint :
    (MemoryInv (small .chkpt 17) ∧ 17 + (small .chkpt 17).thr.tChk.toNat < wave.stop ∧
      (small .chkpt 17).thr.tChk.toNat < 2 ^ 32 ∧ wave.level (17 + (small .chkpt 17).thr.tChk.toNat) = .high) ∧
    (MemoryInv (small .chkpt 16) ∧ wave.level (16 + (small .chkpt 16).thr.tChk.toNat) = .low) ∧
    (MemoryInv (small .chkpt 46) ∧ 46 + (small .chkpt 46).thr.tChk.toNat < wave.stop) := by
  decide

theorem witness_SpointReadsTheBit :
    (MemoryInv (small .spoint 17) ∧ (small .spoint 17).thr.tChk ≤ (small .spoint 17).thr.tSp ∧
      (small .spoint 17).thr.tSp.toNat < 2 ^ 32 ∧
      17 + ((small .spoint 17).thr.tSp.toNat - (small .spoint 17).thr.tChk.toNat) < wave.stop ∧
      wave.level (17 + ((small .spoint 17).thr.tSp.toNat - (small .spoint 17).thr.tChk.toNat)) = .high) ∧
    (MemoryInv (small .spoint 16) ∧
      wave.level (16 + ((small .spoint 16).thr.tSp.toNat - (small .spoint 16).thr.tChk.toNat)) = .low) := by
  decide

theorem witness_SamplerStopsWhereTheStreamEnds :
    MemoryInv (small .chkpt 47) ∧ (small .chkpt 47).source = .finite ∧
    wave.stop ≤ 47 + (checkpointAdvance (small .chkpt 47)).toNat ∧
    wave.stop ≤ 47 + (samplePointAdvance (small .spoint 47)).toNat := by
  decide

/-- A low pulse of `w` samples from 10 on, High after it, the slot at the cursor. -/
def slot (w : Nat) : State :=
  { small .chkpt 10 with
    mem := { base := 0, stop := 50, first := .high, edges := [10, 10 + w] }
    fall := 10, rise := BitVec.ofNat 64 (10 + w), lowW := BitVec.ofNat 64 w }

/-- What the verdict by width asks of a slot. -/
def slotHypotheses (s : State) : Bool :=
  decide (MemoryInv s) && decide (s.ph = .chkpt) && decide (s.pos = s.fall) && decide (s.level = .low) &&
  decide (s.mem.NextEdge s.fall.toNat s.rise.toNat) && decide (s.lowW = s.rise - s.fall) &&
  decide (s.thr.tChk ≤ s.thr.tSp) && decide (s.thr.tSp.toNat < 2 ^ 32) &&
  decide (s.fall.toNat + s.thr.tSp.toNat < s.mem.stop) &&
  decide (∀ b, b < s.fall.toNat + s.thr.tSp.toNat + 1 → s.rise.toNat ≤ b → s.mem.level b = .high)

/-- Widths 3 (`T_CHK`), 4, 6 (`T_SP`) and 7. -/
theorem witness_SlotVerdictFollowsTheWidth :
    (slotHypotheses (slot 3) = true ∧ (slot 3).lowW ≤ (slot 3).thr.tChk) ∧
    (slotHypotheses (slot 4) = true ∧ (slot 4).thr.tChk < (slot 4).lowW) ∧
    (slotHypotheses (slot 6) = true ∧ (slot 6).lowW ≤ (slot 6).thr.tSp) ∧
    (slotHypotheses (slot 7) = true ∧ (slot 7).thr.tSp < (slot 7).lowW) := by
  decide

theorem witness_AsmAcceptsOneBit :
    (small .asm 0).layer = .unknown ∧ layerWidth? fieldInProgress.layer = some 48 ∧ layerWidth? .data = some 16 ∧
    layerWidth? .crc = some 8 := by
  decide

theorem witness_FieldIsFilledLeastSignificantBitFirst :
    layerWidth? ({ small .asm 0 with layer := .crc } : State).layer = some 8 ∧
    ({ small .asm 0 with layer := .crc } : State).bits = 0 ∧ ({ small .asm 0 with layer := .crc } : State).acc = 0 ∧
    [(true, (7 : Index)), (false, 8), (true, 9), (true, 10), (false, 11), (false, 12), (true, 13)].length + 1 =
      (8 : BitVec 6).toNat ∧
    ([] : List (Bool × Index)).length + 1 ≤ (8 : BitVec 6).toNat := by
  decide

theorem witness_EmitSendsTheField :
    fieldFilled.layer = .data ∧ fieldInProgress.layer = .command ∧
    ({ small .emit 0 with layer := .crc } : State).layer = .crc ∧ (small .emit 0).layer = .unknown := by
  decide

theorem witness_ProgressReportsTheCursor : (small .progress 49).mem.holds (small .progress 49).pos.toNat = true := by
  decide

theorem witness_CancelchkPollsThePin :
    ({ smallPins with cancel := true } : Pins).cancel = true ∧ smallPins.cancel = false := by decide

theorem witness_CursorCommandsAnswer :
    MemoryInv (small .idle 9) ∧ wave.NextEdge 9 10 ∧ 9 + (40 : BitVec 32).toNat < wave.stop ∧
    9 + (0 : BitVec 32).toNat < wave.stop := by
  decide

theorem witness_CursorCommandsAnswerEndOfStream :
    MemoryInv (small .idle 49) ∧ (small .idle 49).source = .finite ∧ wave.NoEdge 49 ∧
    wave.stop ≤ 49 + (1 : BitVec 32).toNat := by
  decide

theorem witness_NoSampleUnderTheCursorFaults :
    (small .start 50).mem.holds (small .start 50).pos.toNat = false ∧ admissible (small .start 50).params = true ∧
    (small .start 50).params.minSampleRateHz ≤ (small .start 50).pins.sampleRateHz.toNat ∧
    (small .start 50).pins.channelValid = true := by
  decide

end Sys2Proof.Tests
end

section
/-! The round trip of the TimingModel conversions (40_timing_model.md R81, R83, R86): both quotients truncate, so
converting to microseconds and back can lose samples and never gains one. -/

namespace Sys2Proof.Machine

/-- At rate 0 the quotient of R83 is 0, so the bound needs no positive rate. -/
theorem rate_mul_samplesToUs_le (rate samples : Nat) :
    rate * samplesToUs rate samples ≤ samples * 1000000 :=
  Nat.mul_div_le (samples * 1000000) rate

/-- A time whose product with the rate does not exceed that of `samples` samples converts to at most `samples`. -/
theorem usToSamples_le_of_mul_le {rate us samples : Nat} (h : rate * us ≤ samples * 1000000) :
    usToSamples rate us ≤ samples :=
  Nat.div_le_of_le_mul (by simpa only [Nat.mul_comm] using h)

/-- Settles O27: the product that `usToSamples` divides is at most the one `samplesToUs` truncated. -/
theorem conversionRoundTripNeverGains : Obligations.ConversionRoundTripNeverGains := by
  intro rate samples _
  exact usToSamples_le_of_mul_le (rate_mul_samplesToUs_le rate samples)

end Sys2Proof.Machine
end

section
/-! What an operation leaves alone from its first cursor command on. The commands write the cursor and its answer; MEASURE,
the GlitchFilter, the BitSampler and the way out of a reset add to these the measured pulse pair, the sampled bit, records,
the phase with its halt reason, and the point of a wait; a command at its port leaves the port. -/

namespace Sys2Proof.Machine

/-- The state with everything blanked that an operation writes from its first cursor command on. Two states with the same
value here agree on every register, and on all of the outside, that no such operation changes. -/
def State.offCursor (s : State) : State :=
  { s with
    ph := .idle, haltReason := .none, rise := 0, fall := 0, highW := 0, lowW := 0, bit := false
    pos := 0, sink := [], curRsp := { sample := 0, level := .low, eos := false }, waiting := none, curCmd := none }

/-- The two states agree on all that `State.offCursor` keeps. -/
def SameOffCursor (s u : State) : Prop := u.offCursor = s.offCursor

theorem SameOffCursor.overdrive {s u : State} (h : SameOffCursor s u) : u.overdrive = s.overdrive :=
  show u.offCursor.overdrive = s.offCursor.overdrive from congrArg State.overdrive h

theorem SameOffCursor.cfgForce {s u : State} (h : SameOffCursor s u) : u.cfgForce = s.cfgForce :=
  show u.offCursor.cfgForce = s.offCursor.cfgForce from congrArg State.cfgForce h

section
variable {s u : State}

theorem endOfData_sameOffCursor (h : SameOffCursor s u) : (endOfData u).All (SameOffCursor s) := by
  unfold endOfData
  split <;> exact h

theorem onSample_sameOffCursor {r : Res} (h : r.All (SameOffCursor s)) : (onSample u r).All (SameOffCursor s) := by
  unfold onSample
  split
  · exact h
  · trivial

theorem query_sameOffCursor (h : SameOffCursor s u) : (query u).All (SameOffCursor s) :=
  onSample_sameOffCursor h

theorem advEdge_sameOffCursor (h : SameOffCursor s u) : (advEdge u).All (SameOffCursor s) := by
  refine onSample_sameOffCursor ?_
  split
  · exact h
  · exact endOfData_sameOffCursor h

theorem peekEdge_sameOffCursor (h : SameOffCursor s u) : (peekEdge u).All (SameOffCursor s) := by
  refine onSample_sameOffCursor ?_
  split
  · exact h
  · exact endOfData_sameOffCursor h

theorem advBy_sameOffCursor (n : BitVec 32) (h : SameOffCursor s u) : (advBy n u).All (SameOffCursor s) := by
  refine onSample_sameOffCursor ?_
  split
  · exact h
  · split
    · trivial
    · exact endOfData_sameOffCursor h

/-- A cursor command of the core, and what the operation does once it is answered. -/
theorem command_sameOffCursor {r : Res} {k : State → Res} (p : WaitPoint) (h : r.All (SameOffCursor s))
    (hk : ∀ t, SameOffCursor s t → (k t).All (SameOffCursor s)) :
    ((r.waitingAt p).andThen k).All (SameOffCursor s) :=
  (h.waitingAt fun _ ht => ht).andThen hk

theorem measureLow_sameOffCursor (h : SameOffCursor s u) : (measureLow u).All (SameOffCursor s) :=
  command_sameOffCursor _ (peekEdge_sameOffCursor h) fun _ ht => ht

theorem measureFromRise_sameOffCursor (h : SameOffCursor s u) : (measureFromRise u).All (SameOffCursor s) :=
  command_sameOffCursor _ (advEdge_sameOffCursor h) fun _ ht =>
    (query_sameOffCursor ht).andThen fun _ hv => measureLow_sameOffCursor hv

theorem riseFromCursor_sameOffCursor (h : SameOffCursor s u) : (riseFromCursor u).All (SameOffCursor s) :=
  (query_sameOffCursor h).andThen fun _ ht => ht

theorem measureFromLow_sameOffCursor (h : SameOffCursor s u) : (measureFromLow u).All (SameOffCursor s) :=
  command_sameOffCursor _ (advEdge_sameOffCursor h) fun _ ht =>
    (riseFromCursor_sameOffCursor ht).andThen fun _ hv => measureFromRise_sameOffCursor hv

theorem mergeHighPulse_sameOffCursor (h : SameOffCursor s u) : (mergeHighPulse u).All (SameOffCursor s) :=
  command_sameOffCursor _ (advEdge_sameOffCursor h) fun _ ht =>
    (query_sameOffCursor ht).andThen fun _ hv => measureLow_sameOffCursor hv

theorem skipLowSpike_sameOffCursor (h : SameOffCursor s u) : (skipLowSpike u).All (SameOffCursor s) :=
  command_sameOffCursor _ (advEdge_sameOffCursor h) fun _ ht => mergeHighPulse_sameOffCursor ht

theorem readCheckpoint_sameOffCursor (h : SameOffCursor s u) : (readCheckpoint u).All (SameOffCursor s) :=
  command_sameOffCursor _ (advBy_sameOffCursor _ h) fun _ ht => by split <;> exact ht

theorem readSamplePoint_sameOffCursor (h : SameOffCursor s u) : (readSamplePoint u).All (SameOffCursor s) :=
  command_sameOffCursor _ (advBy_sameOffCursor _ h) fun _ ht => by split <;> exact ht

theorem leaveReset_sameOffCursor (h : SameOffCursor s u) : (leaveReset u).All (SameOffCursor s) :=
  command_sameOffCursor _ (advEdge_sameOffCursor h) fun _ ht => ht

theorem rest_sameOffCursor (p : WaitPoint) (h : SameOffCursor s u) : (rest p u).All (SameOffCursor s) := by
  cases p with
  | risingEdge => exact measureFromLow_sameOffCursor h
  | fallingEdge => exact measureFromRise_sameOffCursor h
  | lowPulseEnd => exact measureLow_sameOffCursor h
  | spikeEnd => exact skipLowSpike_sameOffCursor h
  | mergedPulseEnd => exact mergeHighPulse_sameOffCursor h
  | checkpoint => exact readCheckpoint_sameOffCursor h
  | samplePoint => exact readSamplePoint_sameOffCursor h
  | resetEnd => exact leaveReset_sameOffCursor h

end

section
variable {s t : State} {r : Res}

/-- Taking StreamExhausted writes the phase and the halt reason alone. -/
theorem finish_sameOffCursor (h : finish r = .next t) (hr : r.All (SameOffCursor s)) : SameOffCursor s t :=
  hr.finish (fun _ hu => hu) h

theorem finishCommand_sameOffCursor (h : finishCommand s r = .next t) (hr : r.All (SameOffCursor s)) :
    SameOffCursor s t :=
  hr.finishCommand rfl (fun _ hu => hu) h

/-- An operation in progress that goes on. -/
theorem resume_sameOffCursor {p : WaitPoint} (h : resume p s = .next t) : SameOffCursor s t :=
  finish_sameOffCursor h (rest_sameOffCursor p rfl)

/-- MEASURE, from whichever level the cursor stands on (41_acquire_glitch.md R90). -/
theorem exec_measure_sameOffCursor (h : exec .measure s = .next t) : SameOffCursor s t :=
  finish_sameOffCursor h <| (query_sameOffCursor rfl).andThen fun _ hu => by
    split
    · exact measureFromLow_sameOffCursor hu
    · exact measureFromRise_sameOffCursor hu

theorem exec_progress_sameOffCursor (h : exec .progress s = .next t) : SameOffCursor s t :=
  finish_sameOffCursor h <| (query_sameOffCursor rfl).andThen fun _ hu => hu

end

end Sys2Proof.Machine
end

section
/-! The ResetDetector (42_reset_detector.md): what RSTCHK, RSTACC and RSTRE do, and that of the two bits the effective
overdrive bit is made of (10_state.md R20) no operation but START writes `cfg_force`, and but RSTACC `overdrive`. -/

namespace Sys2Proof.Machine

/-! ## The verdicts -/

/-- The standard test comes first, whatever the mode (42_reset_detector.md R101). -/
theorem classify_of_tStdMin_lt {t : Thresholds} {w : Index} (h : t.tStdMin < w) (odEff : Bool) :
    classify t w odEff = .resetStandard := if_pos h

theorem modeUpdate_of_tStdMin_lt {t : Thresholds} {w : Index} (h : t.tStdMin < w) (overdrive : Bool) :
    modeUpdate t w overdrive = false := if_pos h

/-- The mode update changes the flag only by clearing it, above the standard threshold (42_reset_detector.md R104). -/
theorem tStdMin_lt_of_modeUpdate_ne {t : Thresholds} {w : Index} {overdrive : Bool}
    (h : modeUpdate t w overdrive ≠ overdrive) : t.tStdMin < w :=
  Decidable.byContradiction fun hn => h (if_neg hn)

/-! ## RSTCHK -/

theorem exec_rstchk_of_notReset {s : State} (h : classify s.thr s.lowW s.odEff = .notReset) :
    exec .rstchk s = .next { s with ph := .chkpt } := by
  show execRstchk s = _
  simp only [execRstchk, h]

theorem exec_rstchk_of_reset {s : State} (h : classify s.thr s.lowW s.odEff ≠ .notReset) :
    exec .rstchk s = .next { s with rstWarn := resetWarning s.thr s.lowW s.odEff, ph := .rstacc } := by
  show execRstchk s = _
  cases hc : classify s.thr s.lowW s.odEff with
  | notReset => exact absurd hc h
  | resetStandard => simp only [execRstchk, hc, recordWarning_eq]
  | resetOverdrive => simp only [execRstchk, hc, recordWarning_eq]

/-- Settles O44: one exit of RSTCHK for each verdict. -/
theorem rstchkClassifiesTheLowPulse : Obligations.RstchkClassifiesTheLowPulse :=
  fun _ => ⟨exec_rstchk_of_notReset, exec_rstchk_of_reset⟩

/-! ## RSTRE -/

/-- Settles O46: RSTRE has one path and no condition. -/
theorem rstreReentersDecoding : Obligations.RstreReentersDecoding :=
  fun _ => rfl

/-! ## The mode -/

/-- The two bits of the effective overdrive bit are the same in both states. -/
structure SameMode (s t : State) : Prop where
  overdrive : t.overdrive = s.overdrive
  cfgForce : t.cfgForce = s.cfgForce

theorem SameOffCursor.sameMode {s t : State} (h : SameOffCursor s t) : SameMode s t := ⟨h.overdrive, h.cfgForce⟩

section
variable {s t : State}

/-- An operation that answers its next state outright. -/
theorem sameMode_of_next {u : State} (h : (.next u : Out) = .next t) (hu : SameMode s u) : SameMode s t :=
  Host.Outcome.next.inj h ▸ hu

theorem exec_rstchk_sameMode (h : exec .rstchk s = .next t) : SameMode s t := by
  by_cases hc : classify s.thr s.lowW s.odEff = .notReset
  · rw [exec_rstchk_of_notReset hc] at h
    exact sameMode_of_next h ⟨rfl, rfl⟩
  · rw [exec_rstchk_of_reset hc] at h
    exact sameMode_of_next h ⟨rfl, rfl⟩

theorem exec_gapchk_sameMode (h : exec .gapchk s = .next t) : SameMode s t := by
  change execGapchk s = _ at h
  unfold execGapchk at h
  split at h <;> exact sameMode_of_next h ⟨rfl, rfl⟩

theorem exec_asm_sameMode (h : exec .asm s = .next t) : SameMode s t := by
  change execAsm s = _ at h
  unfold execAsm at h
  split at h <;> exact sameMode_of_next h ⟨rfl, rfl⟩

theorem exec_cancelchk_sameMode (h : exec .cancelchk s = .next t) : SameMode s t := by
  change execCancelchk s = _ at h
  unfold execCancelchk at h
  split at h <;> exact sameMode_of_next h ⟨rfl, rfl⟩

/-- RSTACC, whether its cursor command is answered, fails or waits: the mode update of 42_reset_detector.md R104. -/
theorem exec_rstacc_mode (h : exec .rstacc s = .next t) :
    t.overdrive = modeUpdate s.thr s.lowW s.overdrive ∧ t.cfgForce = s.cfgForce := by
  have ht : SameOffCursor (acceptReset s) t := finish_sameOffCursor h (leaveReset_sameOffCursor rfl)
  exact ⟨ht.overdrive, ht.cfgForce⟩

/-- START and RSTACC apart, no operation writes a bit of the mode. -/
theorem exec_sameMode {i : Instr} (hs : i ≠ .start) (ha : i ≠ .rstacc) (h : exec i s = .next t) : SameMode s t := by
  cases i with
  | start => exact absurd rfl hs
  | rstacc => exact absurd rfl ha
  | measure => exact (exec_measure_sameOffCursor h).sameMode
  | gfHigh => exact (finish_sameOffCursor (s := s) h (measureFromLow_sameOffCursor rfl)).sameMode
  | gfLow => exact (finish_sameOffCursor (s := s) h (skipLowSpike_sameOffCursor rfl)).sameMode
  | chkpt => exact (finish_sameOffCursor (s := s) h (readCheckpoint_sameOffCursor rfl)).sameMode
  | spoint => exact (finish_sameOffCursor (s := s) h (readSamplePoint_sameOffCursor rfl)).sameMode
  | progress => exact (exec_progress_sameOffCursor h).sameMode
  | query => exact (finishCommand_sameOffCursor h (query_sameOffCursor rfl)).sameMode
  | advEdge => exact (finishCommand_sameOffCursor h (advEdge_sameOffCursor rfl)).sameMode
  | peekEdge => exact (finishCommand_sameOffCursor h (peekEdge_sameOffCursor rfl)).sameMode
  | advBy n => exact (finishCommand_sameOffCursor h (advBy_sameOffCursor n rfl)).sameMode
  | gapchk => exact exec_gapchk_sameMode h
  | rstchk => exact exec_rstchk_sameMode h
  | asm => exact exec_asm_sameMode h
  | cancelchk => exact exec_cancelchk_sameMode h
  | idle | gfPass | gapflush | rstre | emit | halt | frame | commit | marker | progressRec =>
    exact sameMode_of_next h ⟨rfl, rfl⟩

/-- START apart, the latched force bit stays. -/
theorem exec_cfgForce {i : Instr} (hs : i ≠ .start) (h : exec i s = .next t) : t.cfgForce = s.cfgForce := by
  by_cases ha : i = .rstacc
  · subst ha
    exact (exec_rstacc_mode h).2
  · exact (exec_sameMode hs ha h).cfgForce

/-- An operation other than START that changes `overdrive` is RSTACC, clearing it for a pulse above the standard
inside-margin threshold. -/
theorem exec_overdrive_ne {i : Instr} (hs : i ≠ .start) (h : exec i s = .next t) (hne : t.overdrive ≠ s.overdrive) :
    i = .rstacc ∧ t.overdrive = false ∧ s.thr.tStdMin < s.lowW := by
  by_cases ha : i = .rstacc
  · subst ha
    have ho := (exec_rstacc_mode h).1
    have hw : s.thr.tStdMin < s.lowW := tStdMin_lt_of_modeUpdate_ne (ho ▸ hne)
    exact ⟨rfl, ho.trans (modeUpdate_of_tStdMin_lt hw _), hw⟩
  · exact absurd (exec_sameMode hs ha h).overdrive hne

end

/-- A force bit that is set makes the effective overdrive bit 1 (10_state.md R20). -/
theorem odEff_of_cfgForce {s : State} (h : s.cfgForce = true) : s.odEff = true := by
  simp [State.odEff, h]

/-- Settles O24: only RSTACC reaches `overdrive`, by the mode update, and only START the force bit; what is left of an
operation that waited, RSTACC's included, reaches neither. -/
theorem overdriveIsOnlyClearedAfterStart : Obligations.OverdriveIsOnlyClearedAfterStart := by
  refine ⟨fun i s t h hs => ⟨exec_overdrive_ne hs h, ?_, fun hw => classify_of_tStdMin_lt hw _, exec_cfgForce hs h, ?_⟩, ?_⟩
  · rintro rfl hw
    exact (exec_rstacc_mode h).1.trans (modeUpdate_of_tStdMin_lt hw _)
  · intro hf
    exact odEff_of_cfgForce ((exec_cfgForce hs h).trans hf)
  · intro p s t h
    have ht := resume_sameOffCursor h
    exact ⟨ht.overdrive, ht.cfgForce⟩

end Sys2Proof.Machine
end

section
/-! The encodings of 30_encoding.md: what stands at each bit of an encoded word, and the round trip both ways. -/

namespace Sys2Proof

/-! ## Phase words -/

@[simp] theorem Phase.ofCode_code (p : Phase) : Phase.ofCode p.code = p := by cases p <;> rfl

@[simp] theorem Phase.code_ofCode (c : BitVec 4) : (Phase.ofCode c).code = c := by revert c; decide

/-- Only the three operations of GLITCH depend on the selection. -/
theorem Phase.instr_of_phase? {i : Instr} {p : Phase} {sel : GlitchSel} (hp : i.phase? = some p)
    (hs : p = .glitch → sel = i.glitchSel) : Phase.instr sel p = i := by
  cases i <;> simp only [Instr.phase?, Option.some.injEq, reduceCtorEq] at hp <;> subst hp <;>
    simp_all [Phase.instr, Instr.glitchSel]

/-- The operation a phase selects is one of that phase (45_decode_loop.md R130). -/
theorem Phase.phase?_instr (sel : GlitchSel) (p : Phase) : (Phase.instr sel p).phase? = some p := by
  cases p with
  | glitch => cases sel <;> rfl
  | _ => rfl

/-- An operation of a phase is encoded as the phase's code. -/
theorem encode_of_phase? {i : Instr} {p : Phase} (hp : i.phase? = some p) : encode i = .phase p.code := by
  cases i <;> simp only [Instr.phase?, Option.some.injEq, reduceCtorEq] at hp <;> subst hp <;> rfl

/-! ## The bits of the other words (30_encoding.md R66, R68) -/

@[simp] theorem FrameKind.ofCode_code (k : FrameKind) : FrameKind.ofCode k.code = k := by cases k <;> rfl

@[simp] theorem FrameKind.code_ofCode (c : BitVec 2) : (FrameKind.ofCode c).code = c := by revert c; decide

@[simp] theorem MarkerKind.ofCode?_code (k : MarkerKind) : MarkerKind.ofCode? k.code = some k := by cases k <;> rfl

theorem MarkerKind.code_of_ofCode? {c : BitVec 3} {k : MarkerKind} (h : MarkerKind.ofCode? c = some k) : k.code = c := by
  have hc : ∀ c k, MarkerKind.ofCode? c = some k → k.code = c := by
    intro c
    revert c
    decide +revert
  exact hc c k h

/-- Marker codes from 5 on are reserved (30_encoding.md R63). -/
theorem MarkerKind.ofCode?_reserved {c : BitVec 3} (h : 5 ≤ c.toNat) : MarkerKind.ofCode? c = none := by
  revert c; decide

theorem encodeCurCmd_getLsbD (n : BitVec 32) (cmd : BitVec 2) (i : Nat) :
    (encodeCurCmd n cmd).getLsbD i = if i < 2 then cmd.getLsbD i else n.getLsbD (i - 2) :=
  BitVec.getLsbD_append ..

theorem encodeFrame_getLsbD (a b : Index) (k : FrameKind) (v : BitVec 48) (x : Bool) (i : Nat) :
    (encodeFrame a b k v x).getLsbD i =
      if i < 2 then false
      else if i < 66 then a.getLsbD (i - 2)
      else if i < 130 then b.getLsbD (i - 66)
      else if i < 132 then k.code.getLsbD (i - 130)
      else if i < 180 then v.getLsbD (i - 132)
      else decide (i - 180 = 0) && x := by
  have h : (encodeFrame a b k v x).getLsbD i = BitVec.getLsbD (w := 1 + 48 + 2 + 64 + 64 + 2)
    (BitVec.ofBool x ++ v ++ k.code ++ b ++ a ++ (0 : BitVec 2)) i := rfl
  rw [h]
  simp only [BitVec.getLsbD_append, BitVec.getLsbD_ofBool, BitVec.ofNat_eq_ofNat, BitVec.getLsbD_zero]
  grind

theorem encodeCommit_getLsbD (i : Nat) :
    BitVec.getLsbD (w := 181) ((0 : BitVec 179) ++ (1 : BitVec 2)) i = decide (i = 0) := by
  have h : BitVec.getLsbD (w := 181) ((0 : BitVec 179) ++ (1 : BitVec 2)) i = BitVec.getLsbD (1 : BitVec 181) i := rfl
  rw [h]
  simp

theorem encodeMarker_getLsbD (a : Index) (k : MarkerKind) (i : Nat) :
    (encodeMarker a k).getLsbD i =
      if i < 2 then decide (i = 1)
      else if i < 66 then a.getLsbD (i - 2)
      else if i < 69 then k.code.getLsbD (i - 66)
      else false := by
  have h2 : ∀ i < 2, (2 : BitVec 2).getLsbD i = decide (i = 1) := by decide
  have h : (encodeMarker a k).getLsbD i = BitVec.getLsbD (w := 112 + 3 + 64 + 2)
    ((0 : BitVec 112) ++ k.code ++ a ++ (2 : BitVec 2)) i := rfl
  rw [h]
  simp only [BitVec.getLsbD_append, BitVec.ofNat_eq_ofNat, BitVec.getLsbD_zero]
  grind

theorem encodeProgress_getLsbD (a : Index) (i : Nat) :
    (encodeProgress a).getLsbD i = if i < 2 then true else if i < 66 then a.getLsbD (i - 2) else false := by
  have h3 : ∀ i < 2, (3 : BitVec 2).getLsbD i = true := by decide
  have h : (encodeProgress a).getLsbD i = BitVec.getLsbD (w := 115 + 64 + 2)
    ((0 : BitVec 115) ++ a ++ (3 : BitVec 2)) i := rfl
  rw [h]
  simp only [BitVec.getLsbD_append, BitVec.ofNat_eq_ofNat, BitVec.getLsbD_zero]
  grind

/-- A field of a word is a value exactly when each of its bits is the value's. -/
theorem extractLsb'_eq_iff {n len : Nat} {w : BitVec n} {start : Nat} {c : BitVec len} :
    w.extractLsb' start len = c ↔ ∀ i < len, w.getLsbD (start + i) = c.getLsbD i := by
  constructor
  · rintro rfl i hi
    simp [hi]
  · intro h
    apply BitVec.eq_of_getLsbD_eq
    intro i hi
    simp [hi, h i hi]

/-! ## Decoding an encoded word -/

theorem encodeCurCmd_cmd (n : BitVec 32) (cmd : BitVec 2) : (encodeCurCmd n cmd).extractLsb' 0 2 = cmd := by
  simp only [extractLsb'_eq_iff, encodeCurCmd_getLsbD]
  grind

theorem encodeCurCmd_n (n : BitVec 32) (cmd : BitVec 2) : (encodeCurCmd n cmd).extractLsb' 2 32 = n := by
  simp only [extractLsb'_eq_iff, encodeCurCmd_getLsbD]
  grind

theorem decodeSnk_encodeFrame (a b : Index) (k : FrameKind) (v : BitVec 48) (x : Bool) :
    decodeSnk (encodeFrame a b k v x) = .ok (.frame a b k v x) := by
  have htype : (encodeFrame a b k v x).extractLsb' 0 2 = 0 := by
    simp only [extractLsb'_eq_iff, encodeFrame_getLsbD]; grind
  have ha : (encodeFrame a b k v x).extractLsb' 2 64 = a := by
    simp only [extractLsb'_eq_iff, encodeFrame_getLsbD]; grind
  have hb : (encodeFrame a b k v x).extractLsb' 66 64 = b := by
    simp only [extractLsb'_eq_iff, encodeFrame_getLsbD]; grind
  have hk : (encodeFrame a b k v x).extractLsb' 130 2 = k.code := by
    simp only [extractLsb'_eq_iff, encodeFrame_getLsbD]; grind
  have hv : (encodeFrame a b k v x).extractLsb' 132 48 = v := by
    simp only [extractLsb'_eq_iff, encodeFrame_getLsbD]; grind
  have hx : (encodeFrame a b k v x).getLsbD 180 = x := by
    simp only [encodeFrame_getLsbD]; grind
  simp [decodeSnk, htype, ha, hb, hk, hv, hx, -BitVec.getLsbD_eq_getElem]

theorem decodeSnk_encodeMarker (a : Index) (k : MarkerKind) : decodeSnk (encodeMarker a k) = .ok (.marker a k) := by
  have htype : (encodeMarker a k).extractLsb' 0 2 = 2 := by
    have : ∀ i < 2, (2 : BitVec 2).getLsbD i = decide (i = 1) := by decide
    simp only [extractLsb'_eq_iff, encodeMarker_getLsbD]; grind
  have ha : (encodeMarker a k).extractLsb' 2 64 = a := by
    simp only [extractLsb'_eq_iff, encodeMarker_getLsbD]; grind
  have hk : (encodeMarker a k).extractLsb' 66 3 = k.code := by
    simp only [extractLsb'_eq_iff, encodeMarker_getLsbD]; grind
  have hz : (encodeMarker a k).extractLsb' 69 112 = 0 := by
    simp only [extractLsb'_eq_iff, encodeMarker_getLsbD]; grind
  simp [decodeSnk, htype, ha, hk, hz]

theorem decodeSnk_encodeProgress (a : Index) : decodeSnk (encodeProgress a) = .ok (.progressRec a) := by
  have htype : (encodeProgress a).extractLsb' 0 2 = 3 := by
    have : ∀ i < 2, (3 : BitVec 2).getLsbD i = true := by decide
    simp only [extractLsb'_eq_iff, encodeProgress_getLsbD]; grind
  have ha : (encodeProgress a).extractLsb' 2 64 = a := by
    simp only [extractLsb'_eq_iff, encodeProgress_getLsbD]; grind
  have hz : (encodeProgress a).extractLsb' 66 115 = 0 := by
    simp only [extractLsb'_eq_iff, encodeProgress_getLsbD]; grind
  simp [decodeSnk, htype, ha, hz]

/-- Settles O2: the phase code of a controller operation, and the fields of every other word, read back. -/
theorem decodeOfEncodeIsIdentity : Obligations.DecodeOfEncodeIsIdentity := by
  intro i sel hsel
  cases hp : i.phase? with
  | some p =>
    simp only [encode_of_phase? hp, decode, Phase.ofCode_code]
    rw [Phase.instr_of_phase? hp fun hg => hsel (hg ▸ hp)]
  | none =>
    cases i <;> simp only [Instr.phase?, reduceCtorEq] at hp
    case query | advEdge | peekEdge | advBy => simp [encode, decode, decodeCurCmd, encodeCurCmd_cmd, encodeCurCmd_n]
    case frame => exact decodeSnk_encodeFrame ..
    case commit => rfl
    case marker => exact decodeSnk_encodeMarker ..
    case progressRec => exact decodeSnk_encodeProgress _

/-! ## Encoding a decoded word -/

theorem encodeCurCmd_of_fields {w : BitVec 34} {n : BitVec 32} {cmd : BitVec 2} (hc : w.extractLsb' 0 2 = cmd)
    (hn : w.extractLsb' 2 32 = n) : encodeCurCmd n cmd = w := by
  apply BitVec.eq_of_getLsbD_eq
  simp only [extractLsb'_eq_iff] at hc hn
  intro i hi
  have := hn (i - 2)
  grind [encodeCurCmd_getLsbD]

theorem encodeFrame_of_fields {w : BitVec 181} (h : w.extractLsb' 0 2 = 0) :
    encodeFrame (w.extractLsb' 2 64) (w.extractLsb' 66 64) (FrameKind.ofCode (w.extractLsb' 130 2))
      (w.extractLsb' 132 48) (w.getLsbD 180) = w := by
  apply BitVec.eq_of_getLsbD_eq
  intro i hi
  simp only [encodeFrame_getLsbD, FrameKind.code_ofCode, BitVec.getLsbD_extractLsb']
  by_cases hx : i = 180
  · subst hx
    simp
  · have := extractLsb'_eq_iff.mp h i
    grind

theorem encodeCommit_of_fields {w : BitVec 181} (h : w.extractLsb' 0 2 = 1) (hz : w.extractLsb' 2 179 = 0) :
    (0 : BitVec 179) ++ (1 : BitVec 2) = w := by
  apply BitVec.eq_of_getLsbD_eq
  intro i hi
  have h1 : ∀ i < 2, (1 : BitVec 2).getLsbD i = decide (i = 0) := by decide
  have := extractLsb'_eq_iff.mp h i
  have := extractLsb'_eq_iff.mp hz (i - 2)
  rw [encodeCommit_getLsbD]
  grind

theorem encodeMarker_of_fields {w : BitVec 181} {k : MarkerKind} (h : w.extractLsb' 0 2 = 2)
    (hk : w.extractLsb' 66 3 = k.code) (hz : w.extractLsb' 69 112 = 0) : encodeMarker (w.extractLsb' 2 64) k = w := by
  apply BitVec.eq_of_getLsbD_eq
  intro i hi
  have h2 : ∀ i < 2, (2 : BitVec 2).getLsbD i = decide (i = 1) := by decide
  have := extractLsb'_eq_iff.mp h i
  have := extractLsb'_eq_iff.mp hk (i - 66)
  have := extractLsb'_eq_iff.mp hz (i - 69)
  simp only [encodeMarker_getLsbD, BitVec.getLsbD_extractLsb']
  grind

theorem encodeProgress_of_fields {w : BitVec 181} (h : w.extractLsb' 0 2 = 3) (hz : w.extractLsb' 66 115 = 0) :
    encodeProgress (w.extractLsb' 2 64) = w := by
  apply BitVec.eq_of_getLsbD_eq
  intro i hi
  have h3 : ∀ i < 2, (3 : BitVec 2).getLsbD i = true := by decide
  have := extractLsb'_eq_iff.mp h i
  have := extractLsb'_eq_iff.mp hz (i - 66)
  simp only [encodeProgress_getLsbD, BitVec.getLsbD_extractLsb']
  grind

/-- The four codes of a two-bit field. -/
theorem twoBits_cases (c : BitVec 2) : c = 0 ∨ c = 1 ∨ c = 2 ∨ c = 3 := by revert c; decide

theorem ite_error_eq_ok {p : Prop} [Decidable p] {e : DecodeError} {r : Except DecodeError Instr} {i : Instr} :
    (if p then r else .error e) = .ok i ↔ p ∧ r = .ok i := by
  split <;> simp [*]

theorem encode_of_decodeCurCmd {w : BitVec 34} {i : Instr} (h : decodeCurCmd w = .ok i) : encode i = .curCmd w := by
  rcases twoBits_cases (w.extractLsb' 0 2) with hc | hc | hc | hc <;>
    simp [decodeCurCmd, hc, ite_error_eq_ok] at h
  · obtain ⟨hn, rfl⟩ := h
    exact congrArg FetchWord.curCmd (encodeCurCmd_of_fields hc hn)
  · obtain ⟨hn, rfl⟩ := h
    exact congrArg FetchWord.curCmd (encodeCurCmd_of_fields hc hn)
  · obtain ⟨hn, rfl⟩ := h
    exact congrArg FetchWord.curCmd (encodeCurCmd_of_fields hc hn)
  · subst h
    exact congrArg FetchWord.curCmd (encodeCurCmd_of_fields hc rfl)

theorem encode_of_decodeSnk {w : BitVec 181} {i : Instr} (h : decodeSnk w = .ok i) : encode i = .snk w := by
  rcases twoBits_cases (w.extractLsb' 0 2) with ht | ht | ht | ht <;>
    simp [decodeSnk, ht, ite_error_eq_ok, -BitVec.getLsbD_eq_getElem] at h
  · subst h
    exact congrArg FetchWord.snk (encodeFrame_of_fields ht)
  · obtain ⟨hz, rfl⟩ := h
    exact congrArg FetchWord.snk (encodeCommit_of_fields ht hz)
  · obtain ⟨hz, h⟩ := h
    cases hk : MarkerKind.ofCode? (w.extractLsb' 66 3) with
    | none => simp [hk] at h
    | some k =>
      simp only [hk, Except.ok.injEq] at h
      subst h
      exact congrArg FetchWord.snk (encodeMarker_of_fields ht (MarkerKind.code_of_ofCode? hk).symm hz)
  · obtain ⟨hz, rfl⟩ := h
    exact congrArg FetchWord.snk (encodeProgress_of_fields ht hz)

/-- Settles O3: format by format, a word that decodes is put together again from the fields it was read from. -/
theorem encodeOfDecodeIsTheWord : Obligations.EncodeOfDecodeIsTheWord := by
  intro w sel i h
  cases w with
  | phase c =>
    simp only [decode, Except.ok.injEq] at h
    subst h
    rw [encode_of_phase? (Phase.phase?_instr sel _), Phase.code_ofCode]
  | curCmd w => exact encode_of_decodeCurCmd h
  | snk w => exact encode_of_decodeSnk h

/-! ## Reserved words, worked examples, bytes -/

/-- Settles O4: each refusal is the branch of the decoder that the reserved field selects. -/
theorem reservedWordsAreRefused : Obligations.ReservedWordsAreRefused := by
  refine ⟨fun w hc hn => ?_, fun w ht hz => ?_, fun w ht hz => ?_, fun w ht hz hk => ?_, fun w ht hz => ?_⟩
  · rcases twoBits_cases (w.extractLsb' 0 2) with h | h | h | h
    · simp [decodeCurCmd, h] ; exact hn
    · simp [decodeCurCmd, h] ; exact hn
    · simp [decodeCurCmd, h] ; exact hn
    · exact absurd h hc
  · simp [decodeSnk, ht]; exact hz
  · simp [decodeSnk, ht]; exact fun h => absurd h hz
  · simp [decodeSnk, ht, MarkerKind.ofCode?_reserved hk]; exact hz
  · simp [decodeSnk, ht]; exact hz

/-- Settles O1. -/
theorem specWordsDecode : Obligations.SpecWordsDecode := by
  unfold Obligations.SpecWordsDecode
  decide

theorem natToBytes_length (n w : Nat) : (natToBytes n w).length = n := by
  induction n generalizing w with
  | zero => rfl
  | succ n ih => simp [natToBytes, ih]

/-- Byte `k` of a number (20_memory.md R53). -/
theorem natToBytes_getElem (n w k : Nat) (h : k < (natToBytes n w).length) :
    ((natToBytes n w)[k]).toNat = w / 256 ^ k % 256 := by
  induction n generalizing w k with
  | zero => simp [natToBytes] at h
  | succ n ih =>
    cases k with
    | zero => simp [natToBytes]
    | succ k =>
      simp only [natToBytes, List.getElem_cons_succ, ih]
      rw [Nat.div_div_eq_div_mul, Nat.pow_succ']

theorem bytesToNat_natToBytes (n w : Nat) : bytesToNat (natToBytes n w) = w % 256 ^ n := by
  induction n generalizing w with
  | zero => simp [natToBytes, bytesToNat, Nat.mod_one]
  | succ n ih => rw [natToBytes, bytesToNat, ih, Nat.pow_succ', Nat.mod_mul, BitVec.toNat_ofNat]

/-- Settles O5, by induction on the number of bytes. -/
theorem packedBytesAreLittleEndian : Obligations.PackedBytesAreLittleEndian :=
  fun n w => ⟨natToBytes_length n w, natToBytes_getElem n w, bytesToNat_natToBytes n w⟩

end Sys2Proof
end

section
/-! What an operation with cursor commands can do, said once and for every state: how far it has come where it completes,
where the stream is exhausted and where it waits. -/

namespace Sys2Proof.Machine

/-- `u` is `s` but for the cursor, its answer and the registers of the pulse pair, and the cursor, if it stood on a sample,
has not moved back and stands on one. -/
def Moved (s u : State) : Prop :=
  ∃ pos rise fall highW lowW r,
    u = { s with pos := pos, rise := rise, fall := fall, highW := highW, lowW := lowW, curRsp := r } ∧
    (MemoryInv s → s.mem.holds pos.toNat = true ∧ s.pos ≤ pos)

theorem moved_self (s : State) : Moved s s :=
  ⟨_, _, _, _, _, _, rfl, fun h => ⟨h.2, BitVec.le_refl _⟩⟩

theorem Moved.trans {s u v : State} (h : Moved s u) (g : Moved u v) : Moved s v := by
  obtain ⟨pos, rise, fall, highW, lowW, r, rfl, hp⟩ := h
  obtain ⟨pos', rise', fall', highW', lowW', r', rfl, hp'⟩ := g
  refine ⟨pos', rise', fall', highW', lowW', r', rfl, fun hm => ?_⟩
  have hu := hp' ⟨hm.1, (hp hm).1⟩
  exact ⟨hu.1, BitVec.le_trans (hp hm).2 hu.2⟩

/-- Writing registers of the pulse pair. -/
theorem Moved.write {s u : State} (h : Moved s u) (rise fall highW lowW : Index) :
    Moved s { u with rise := rise, fall := fall, highW := highW, lowW := lowW } := by
  obtain ⟨pos, _, _, _, _, r, rfl, hp⟩ := h
  exact ⟨pos, rise, fall, highW, lowW, r, rfl, hp⟩

theorem Moved.memoryInv {s u : State} (h : Moved s u) (hm : MemoryInv s) : MemoryInv u ∧ s.pos ≤ u.pos := by
  obtain ⟨pos, _, _, _, _, r, rfl, hp⟩ := h
  exact ⟨⟨hm.1, (hp hm).1⟩, (hp hm).2⟩

theorem Moved.source {s u : State} (h : Moved s u) : u.source = s.source := by
  obtain ⟨_, _, _, _, _, _, rfl, _⟩ := h
  rfl

theorem answer_moved (x : Index) (b : Bool) (s : State) : Moved s (answer x b s) :=
  ⟨_, _, _, _, _, _, rfl, fun h => ⟨h.2, BitVec.le_refl _⟩⟩

theorem moveTo_moved {s : State} {p : Index} (h : MemoryInv s → s.mem.holds p.toNat = true ∧ s.pos ≤ p) :
    Moved s (moveTo p s) :=
  ⟨_, _, _, _, _, _, rfl, h⟩

/-- How an operation, or a part of one, can end that began in `s`: it completes, as `done` says; on a stream that can end it
is exhausted, the cursor moved and registers of the pulse pair written; on a live one it waits; it faults
only where the waveform or the cursor is not what MemoryInv says; it is refused only as `refuses` says. -/
def Goes (s : State) (done : State → Prop) (refuses : Refusal → Prop) : Res → Prop
  | .ok t => done t
  | .eos t => s.source = .finite ∧ Moved s t
  | .waits t => s.source = .live ∧ ∃ p u, Moved s u ∧ t = { u with waiting := some p }
  | .fault _ => ¬ MemoryInv s
  | .refused f => refuses f

/-- The refusal of an advance past index 2^64 on a live stream (93_implementation_defined.md U9; log 12). -/
def Beyond (s : State) (f : Refusal) : Prop :=
  f = .indexBeyond64 ∧ s.source = .live ∧ 2 ^ 64 ≤ s.pos.toNat + 2 ^ 32

/-- A pulse pair has been measured, and GLITCH is next. -/
def Acquired (s t : State) : Prop := ∃ u, Moved s u ∧ t = { u with ph := .glitch }

/-- The checkpoint has been read (43_bit_sampler.md R111): High, the slot is invalid; Low, SPOINT is next. -/
def Checked (s t : State) : Prop :=
  ∃ u, Moved s u ∧
    (t = { emit (.marker u.curRsp.sample .invalid) u with ph := .progress } ∨ t = { u with ph := .spoint })

/-- The bit has been read (43_bit_sampler.md R112), and ASM is next. -/
def Sampled (s t : State) : Prop :=
  ∃ u, Moved s u ∧ ∃ b : Bool,
    t = { emit (.marker u.curRsp.sample (if b then .one else .zero)) u with bit := b, ph := .asm }

/-- The reset pulse has been left (42_reset_detector.md R105), and RSTRE is next. -/
def LeftReset (s t : State) : Prop := ∃ u, Moved s u ∧ t = { u with ph := .rstre }

section
variable {s u t : State} {done : State → Prop} {refuses : Refusal → Prop} {p : WaitPoint}

/-! ## A single command -/

theorem endOfData_goes (h : Moved s u) :
    Goes s done refuses ((endOfData u).waitingAt p) := by
  unfold endOfData
  split
  · next hs => exact ⟨h.source ▸ hs, h.trans (answer_moved _ _ _)⟩
  · next hs => exact ⟨h.source ▸ hs, p, u, h, rfl⟩

theorem onSample_goes {r : Res} (h : Moved s u) (hr : Goes s done refuses (r.waitingAt p)) :
    Goes s done refuses ((onSample u r).waitingAt p) := by
  unfold onSample
  split
  · exact hr
  · next hs => exact fun hm => hs (h.memoryInv hm).1.2

/-- The next edge is ahead of the cursor and a sample. -/
theorem next?_moves {e : Nat} (h : s.mem.next? s.pos.toNat = some e) (hm : MemoryInv s) :
    s.mem.holds (BitVec.ofNat 64 e).toNat = true ∧ s.pos ≤ BitVec.ofNat 64 e := by
  have he := Memory.next?_some hm.1 h
  rw [BitVec.le_def, NextEdge.index hm he]
  exact ⟨Memory.holds_of_nextEdge hm.2 he, Nat.le_of_lt he.1⟩

theorem advEdge_goes (h : Moved s u) :
    Goes s (Moved s) refuses ((advEdge u).waitingAt p) := by
  refine onSample_goes h ?_
  split
  · next he => exact h.trans (moveTo_moved (next?_moves he))
  · exact endOfData_goes h

theorem peekEdge_goes (h : Moved s u) :
    Goes s (Moved s) refuses ((peekEdge u).waitingAt p) := by
  refine onSample_goes h ?_
  split
  · exact h.trans (answer_moved _ _ _)
  · exact endOfData_goes h

theorem advBy_goes (n : BitVec 32) :
    Goes s (Moved s) (Beyond s) ((advBy n s).waitingAt p) := by
  refine onSample_goes (moved_self s) ?_
  split
  · next hn =>
    refine moveTo_moved fun hm => ?_
    have hpos := advBy_pos hm hn
    have hb := hm.bounds
    refine ⟨(Memory.holds_iff _ _).mpr ?_, BitVec.le_def.mpr ?_⟩ <;> omega
  · split
    · next hl => exact ⟨rfl, hl.1, by have := n.isLt; omega⟩
    · exact endOfData_goes (moved_self s)

theorem query_goes (h : Moved s u) : Goes s (Moved s) refuses (query u) := by
  unfold query onSample
  split
  · exact h.trans (answer_moved _ _ _)
  · next hs => exact fun hm => hs (h.memoryInv hm).1.2

/-! ## The parts of the operations -/

/-- A command, and what follows where it has been answered. -/
theorem Goes.andThen {r : Res} {k : State → Res} (h : Goes s (Moved s) refuses r)
    (hk : ∀ v, Moved s v → Goes s done refuses (k v)) : Goes s done refuses (r.andThen k) := by
  cases r with
  | ok v => exact hk v h
  | _ => exact h

theorem measureLow_goes (h : Moved s u) :
    Goes s (Acquired s) refuses (measureLow u) :=
  (peekEdge_goes h).andThen fun v hv =>
    ⟨_, hv.write v.curRsp.sample v.fall v.highW (v.curRsp.sample - v.fall), rfl⟩

theorem measureFromRise_goes (h : Moved s u) :
    Goes s (Acquired s) refuses (measureFromRise u) :=
  (advEdge_goes h).andThen fun _ hv => (query_goes hv).andThen fun w hw =>
    measureLow_goes (hw.write w.rise w.curRsp.sample (w.curRsp.sample - w.rise) w.lowW)

theorem riseFromCursor_goes (h : Moved s u) : Goes s (Moved s) refuses (riseFromCursor u) :=
  (query_goes h).andThen fun v hv => hv.write v.curRsp.sample v.fall v.highW v.lowW

theorem measureFromLow_goes (h : Moved s u) :
    Goes s (Acquired s) refuses (measureFromLow u) :=
  (advEdge_goes h).andThen fun _ hv => (riseFromCursor_goes hv).andThen fun _ hw =>
    measureFromRise_goes hw

theorem mergeHighPulse_goes (h : Moved s u) :
    Goes s (Acquired s) refuses (mergeHighPulse u) :=
  (advEdge_goes h).andThen fun _ hv => (query_goes hv).andThen fun w hw =>
    measureLow_goes (hw.write w.rise w.curRsp.sample (w.highW + (w.curRsp.sample - w.fall)) w.lowW)

theorem skipLowSpike_goes (h : Moved s u) :
    Goes s (Acquired s) refuses (skipLowSpike u) :=
  (advEdge_goes h).andThen fun _ hv =>
    mergeHighPulse_goes hv

theorem readCheckpoint_goes (s : State) : Goes s (Checked s) (Beyond s) (readCheckpoint s) :=
  (advBy_goes _).andThen fun v hv => by
    split
    · exact ⟨v, hv, .inl rfl⟩
    · exact ⟨v, hv, .inr rfl⟩

theorem readSamplePoint_goes (s : State) : Goes s (Sampled s) (Beyond s) (readSamplePoint s) :=
  (advBy_goes _).andThen fun v hv => by
    split
    · exact ⟨v, hv, true, rfl⟩
    · exact ⟨v, hv, false, rfl⟩

theorem leaveReset_goes (s : State) : Goes s (LeftReset s) refuses (leaveReset s) :=
  (advEdge_goes (moved_self s)).andThen fun v hv => ⟨v, hv, rfl⟩

/-! ## The operations -/

/-- The next states of an operation that began in `s`. -/
def Ends (s : State) (done : State → Prop) (t : State) : Prop :=
  done t ∨
  (s.source = .finite ∧ ∃ u, Moved s u ∧ t = { u with haltReason := .streamExhausted, ph := .halt }) ∨
  (s.source = .live ∧ ∃ p u, Moved s u ∧ t = { u with waiting := some p })

theorem Goes.ends {r : Res} (h : Goes s done refuses r) (hf : finish r = .next t) : Ends s done t := by
  rcases finish_next hf with rfl | ⟨u, rfl, rfl⟩ | rfl
  · exact .inl h
  · exact .inr (.inl ⟨h.1, u, h.2, rfl⟩)
  · exact .inr (.inr h)

/-- With the cursor on a sample an operation answers a next state or is refused. -/
theorem Goes.next_or_refused {r : Res} (h : Goes s done refuses r) (hm : MemoryInv s) :
    (∃ t, finish r = .next t) ∨ ∃ f, refuses f ∧ finish r = .refused f := by
  cases r with
  | ok t => exact .inl ⟨t, rfl⟩
  | eos t => exact .inl ⟨_, rfl⟩
  | waits t => exact .inl ⟨t, rfl⟩
  | fault f => exact absurd hm h
  | refused f => exact .inr ⟨f, h, rfl⟩

theorem exec_measure_goes (s : State) (refuses : Refusal → Prop) :
    ∃ r, exec .measure s = finish r ∧ Goes s (Acquired s) refuses r :=
  ⟨_, rfl, (query_goes (moved_self s)).andThen fun v hv => by
    split
    · exact measureFromLow_goes hv
    · exact measureFromRise_goes hv⟩

theorem exec_measure_ends (h : exec .measure s = .next t) : Ends s (Acquired s) t := by
  obtain ⟨r, hr, hg⟩ := exec_measure_goes s fun _ => True
  exact hg.ends (hr ▸ h)

/-- The diagnostic marker of GF_HIGH and GF_LOW (60_exceptions.md R151) comes before their first command. -/
theorem exec_gfHigh_ends (h : exec .gfHigh s = .next t) :
    Ends (emit (.marker s.fall .invalid) s) (Acquired (emit (.marker s.fall .invalid) s)) t :=
  (measureFromLow_goes (refuses := fun _ => True) (moved_self _)).ends h

theorem exec_gfLow_ends (h : exec .gfLow s = .next t) :
    Ends (emit (.marker s.fall .invalid) s) (Acquired (emit (.marker s.fall .invalid) s)) t :=
  (skipLowSpike_goes (refuses := fun _ => True) (moved_self _)).ends h

theorem exec_chkpt_ends (h : exec .chkpt s = .next t) : Ends s (Checked s) t := (readCheckpoint_goes s).ends h

theorem exec_spoint_ends (h : exec .spoint s = .next t) : Ends s (Sampled s) t := (readSamplePoint_goes s).ends h

theorem exec_rstacc_ends (h : exec .rstacc s = .next t) : Ends (acceptReset s) (LeftReset (acceptReset s)) t :=
  (leaveReset_goes (refuses := fun _ => True) _).ends h

/-- How what is left of an operation completes. -/
def WaitPoint.Done : WaitPoint → State → State → Prop
  | .risingEdge | .fallingEdge | .lowPulseEnd | .spikeEnd | .mergedPulseEnd => Acquired
  | .checkpoint => Checked
  | .samplePoint => Sampled
  | .resetEnd => LeftReset

theorem rest_goes (p : WaitPoint) (s : State) : Goes s (p.Done s) (Beyond s) (rest p s) := by
  cases p with
  | risingEdge => exact measureFromLow_goes (moved_self s)
  | fallingEdge => exact measureFromRise_goes (moved_self s)
  | lowPulseEnd => exact measureLow_goes (moved_self s)
  | spikeEnd => exact skipLowSpike_goes (moved_self s)
  | mergedPulseEnd => exact mergeHighPulse_goes (moved_self s)
  | checkpoint => exact readCheckpoint_goes s
  | samplePoint => exact readSamplePoint_goes s
  | resetEnd => exact leaveReset_goes s

theorem resume_ends (h : resume p s = .next t) :
    Ends { s with waiting := none } (p.Done { s with waiting := none }) t :=
  (rest_goes p _).ends h

/-- A command at its port. -/
theorem Goes.finishCommand {r : Res} (h : Goes s (Moved s) refuses (r.waitingAt p))
    (hf : finishCommand s r = .next t) : t = s ∨ ∃ u, Moved s u ∧ t = { u with curCmd := none } := by
  rcases finishCommand_next hf with ⟨u, rfl | rfl, rfl⟩ | ⟨u, rfl, rfl⟩
  · exact .inr ⟨u, h, rfl⟩
  · exact .inr ⟨u, h.2, rfl⟩
  · exact .inl rfl

/-- The four cursor commands (20_memory.md R43 to R46). -/
def isCommand : Instr → Bool
  | .query | .advEdge | .peekEdge | .advBy _ => true
  | _ => false

theorem exec_command_cases {i : Instr} (hi : isCommand i = true) (h : exec i s = .next t) :
    t = s ∨ ∃ u, Moved s u ∧ t = { u with curCmd := none } := by
  have hs := moved_self s
  cases i with
  | query =>
    have hg : Goes s (Moved s) (fun _ => True) ((query s).waitingAt .risingEdge) :=
      onSample_goes hs (answer_moved s.pos false s)
    exact hg.finishCommand h
  | advEdge => exact (advEdge_goes (refuses := fun _ => True) (p := .risingEdge) hs).finishCommand h
  | peekEdge => exact (peekEdge_goes (refuses := fun _ => True) (p := .risingEdge) hs).finishCommand h
  | advBy n => exact (advBy_goes (p := .risingEdge) n).finishCommand h
  | _ => cases hi

/-! ## The operations without a command that may wait -/

theorem riseFromCursor_cases {r : Res} (h : riseFromCursor s = r) :
    (∃ a, r = .ok { s with rise := s.pos, curRsp := a }) ∨ (∃ f, r = .fault f) := by
  subst h
  cases hh : s.mem.holds s.pos.toNat with
  | true => exact .inl ⟨_, riseFromCursor_eq hh⟩
  | false =>
    refine .inr ⟨.sampleOutsideData, ?_⟩
    simp only [riseFromCursor, query, onSample_of_not hh, andThen_fault]

/-- START rejects the configuration, or builds the state of a run. -/
theorem exec_start_cases (h : exec .start s = .next t) :
    (configurationBad s = true ∧ t = { s with haltReason := .configurationError, ph := .halt }) ∨
    (admissible s.params = true ∧ configurationBad s = false ∧
      ∃ a, t = { startRegisters s with rise := s.pos, curRsp := a, haltReason := .none, ph := .measure }) := by
  change execStart s = _ at h
  unfold execStart at h
  split at h
  · cases h
  · next ha =>
    split at h
    · next hb => exact .inl ⟨hb, (Host.Outcome.next.inj h).symm⟩
    · next hb =>
      rcases riseFromCursor_cases (s := startRegisters s) rfl with ⟨a, hr⟩ | ⟨f, hr⟩ <;> rw [hr] at h
      · exact .inr ⟨by simpa using ha, by simpa using hb, a, (Host.Outcome.next.inj h).symm⟩
      · cases h

theorem exec_progress_cases (h : exec .progress s = .next t) :
    ∃ a, t = { emit (.progress s.pos) s with curRsp := a, ph := .cancelchk } := by
  change execProgress s = _ at h
  cases hh : s.mem.holds s.pos.toNat with
  | true =>
    simp only [execProgress, query_eq hh, andThen_ok, finish_ok] at h
    exact ⟨_, (Host.Outcome.next.inj h).symm⟩
  | false =>
    simp only [execProgress, query, onSample_of_not hh, andThen_fault, finish_fault] at h
    cases h

theorem exec_gapchk_cases (h : exec .gapchk s = .next t) :
    t = { emit (.marker s.fall .start) s with st := .newTransactionGap, ph := .gapflush } ∨
      t = { emit (.marker s.fall .downArrow) s with ph := .rstchk } := by
  change execGapchk s = _ at h
  unfold execGapchk at h
  split at h
  · exact .inl (Host.Outcome.next.inj h).symm
  · exact .inr (Host.Outcome.next.inj h).symm

theorem exec_rstchk_cases (h : exec .rstchk s = .next t) :
    t = { s with ph := .chkpt } ∨ ∃ w, t = { s with rstWarn := w, ph := .rstacc } := by
  by_cases hc : classify s.thr s.lowW s.odEff = .notReset
  · exact .inl (Host.Outcome.next.inj ((exec_rstchk_of_notReset hc).symm.trans h)).symm
  · exact .inr ⟨_, (Host.Outcome.next.inj ((exec_rstchk_of_reset hc).symm.trans h)).symm⟩

theorem exec_asm_cases (h : exec .asm s = .next t) :
    (layerWidth? s.layer = none ∧ t = { s with ph := .progress }) ∨
      ∃ w, layerWidth? s.layer = some w ∧
        t = { acceptBit s with ph := if s.bits + 1 = w then .emit else .progress } := by
  change execAsm s = _ at h
  unfold execAsm at h
  split at h
  · next hw => exact .inl ⟨hw, (Host.Outcome.next.inj h).symm⟩
  · next w hw => exact .inr ⟨w, hw, (Host.Outcome.next.inj h).symm⟩

theorem exec_cancelchk_cases (h : exec .cancelchk s = .next t) :
    (s.pins.cancel = true ∧ t = { s with haltReason := .cancelled, ph := .halt }) ∨ t = { s with ph := .measure } := by
  change execCancelchk s = _ at h
  unfold execCancelchk at h
  split at h
  · next hc => exact .inl ⟨hc, (Host.Outcome.next.inj h).symm⟩
  · exact .inr (Host.Outcome.next.inj h).symm

end

end Sys2Proof.Machine
end

section
/-! What no operation touches, and what every step keeps of the waveform and the cursor: the canonical form, the samples that
are there, a sample under the cursor, and that the cursor does not move back (20_memory.md R41, R42). -/

namespace Sys2Proof.Machine

/-- What the core does not own is the same, and the cursor, if it stood on a sample, has not moved back and stands on one. -/
structure Onward (s t : State) : Prop where
  outside : SameOutside s t
  cursor : MemoryInv s → MemoryInv t ∧ s.pos ≤ t.pos

section
variable {s t u : State}

/-- A change of the core's own registers, the cursor apart. -/
theorem onward_of_eq
    (h : t.mem = s.mem ∧ t.ended = s.ended ∧ t.params = s.params ∧ t.pins = s.pins ∧ t.script = s.script := by
      exact ⟨rfl, rfl, rfl, rfl, rfl⟩)
    (hp : t.pos = s.pos := by rfl) : Onward s t where
  outside := (sameOutside_self s).of_eq h
  cursor hm := by
    refine ⟨?_, hp ▸ BitVec.le_refl _⟩
    show t.mem.wf = true ∧ t.mem.holds t.pos.toNat = true
    rw [h.1, hp]
    exact hm

/-- A command, and then a change of registers, the cursor apart. -/
theorem Moved.onward (h : Moved s u)
    (hv : t.mem = u.mem ∧ t.ended = u.ended ∧ t.params = u.params ∧ t.pins = u.pins ∧ t.script = u.script := by
      exact ⟨rfl, rfl, rfl, rfl, rfl⟩)
    (hp : t.pos = u.pos := by rfl) : Onward s t := by
  have hu : SameOutside s u := by
    obtain ⟨_, _, _, _, _, _, rfl, _⟩ := h
    exact ⟨rfl, rfl, rfl, rfl, rfl⟩
  refine ⟨hu.of_eq hv, fun hm => ?_⟩
  obtain ⟨hum, hle⟩ := h.memoryInv hm
  exact ⟨((onward_of_eq hv hp).cursor hum).1, hp ▸ hle⟩

theorem Onward.trans (h : Onward s u) (g : Onward u t) : Onward s t where
  outside := h.outside.of_eq ⟨g.outside.mem, g.outside.ended, g.outside.params, g.outside.pins, g.outside.script⟩
  cursor hm := ⟨(g.cursor (h.cursor hm).1).1, BitVec.le_trans (h.cursor hm).2 (g.cursor (h.cursor hm).1).2⟩

theorem Ends.onward {done : State → Prop} (h : Ends s done t) (hd : ∀ v, done v → Onward s v) : Onward s t := by
  rcases h with h | ⟨_, u, hu, rfl⟩ | ⟨_, p, u, hu, rfl⟩
  · exact hd t h
  · exact hu.onward
  · exact hu.onward

theorem Acquired.onward (h : Acquired s t) : Onward s t := by
  obtain ⟨u, hu, rfl⟩ := h
  exact hu.onward

theorem Checked.onward (h : Checked s t) : Onward s t := by
  obtain ⟨u, hu, rfl | rfl⟩ := h
  · exact hu.onward
  · exact hu.onward

theorem Sampled.onward (h : Sampled s t) : Onward s t := by
  obtain ⟨u, hu, b, rfl⟩ := h
  exact hu.onward

theorem LeftReset.onward (h : LeftReset s t) : Onward s t := by
  obtain ⟨u, hu, rfl⟩ := h
  exact hu.onward

theorem WaitPoint.Done.onward {p : WaitPoint} (h : p.Done s t) : Onward s t := by
  cases p with
  | checkpoint => exact Checked.onward h
  | samplePoint => exact Sampled.onward h
  | resetEnd => exact LeftReset.onward h
  | _ => exact Acquired.onward h

/-- An operation that answers its next state outright. -/
theorem onward_of_next (h : (.next u : Out) = .next t) (hu : Onward s u) : Onward s t := Host.Outcome.next.inj h ▸ hu

/-- The marker of GF_HIGH and GF_LOW. -/
theorem marker_onward (s : State) : Onward s (emit (.marker s.fall .invalid) s) := onward_of_eq

/-- Every operation leaves the outside alone and moves the cursor only forward, from sample to sample. -/
theorem exec_onward {i : Instr} (h : exec i s = .next t) : Onward s t := by
  cases i with
  | measure => exact (exec_measure_ends h).onward fun _ => Acquired.onward
  | gfHigh => exact (marker_onward s).trans ((exec_gfHigh_ends h).onward fun _ => Acquired.onward)
  | gfLow => exact (marker_onward s).trans ((exec_gfLow_ends h).onward fun _ => Acquired.onward)
  | chkpt => exact (exec_chkpt_ends h).onward fun _ => Checked.onward
  | spoint => exact (exec_spoint_ends h).onward fun _ => Sampled.onward
  | rstacc =>
    have hs : Onward s (acceptReset s) := onward_of_eq
    exact hs.trans ((exec_rstacc_ends h).onward fun _ => LeftReset.onward)
  | query | advEdge | peekEdge | advBy =>
    rcases exec_command_cases rfl h with rfl | ⟨u, hu, rfl⟩
    · exact (moved_self _).onward
    · exact hu.onward
  | start =>
    rcases exec_start_cases h with ⟨_, rfl⟩ | ⟨_, _, _, rfl⟩ <;> exact onward_of_eq
  | progress =>
    obtain ⟨_, rfl⟩ := exec_progress_cases h
    exact onward_of_eq
  | gapchk => rcases exec_gapchk_cases h with rfl | rfl <;> exact onward_of_eq
  | rstchk => rcases exec_rstchk_cases h with rfl | ⟨_, rfl⟩ <;> exact onward_of_eq
  | asm => rcases exec_asm_cases h with ⟨_, rfl⟩ | ⟨_, _, rfl⟩ <;> exact onward_of_eq
  | cancelchk => rcases exec_cancelchk_cases h with ⟨_, rfl⟩ | rfl <;> exact onward_of_eq
  | idle | gfPass | gapflush | rstre | emit | halt | frame | commit | marker | progressRec =>
    exact onward_of_next h onward_of_eq

theorem resume_onward {p : WaitPoint} (h : resume p s = .next t) : Onward s t :=
  (onward_of_eq : Onward s { s with waiting := none }).trans ((resume_ends h).onward fun _ => WaitPoint.Done.onward)

theorem hardwareReset_onward (s : State) : Onward s (hardwareReset s) := onward_of_eq

theorem resetInProgress_onward (p : WaitPoint) (s : State) : Onward s (resetInProgress p s) := by
  rcases resetInProgress_cases p s with ⟨t, ht, h⟩ | ⟨_, h⟩ <;> rw [h]
  · exact (resume_onward ht).trans (hardwareReset_onward t)
  · exact hardwareReset_onward s

/-- Every step is an operation, or a reset, and then the outside's turn. -/
theorem step_onward (h : step s = .next t) : ∃ u, Onward s u ∧ hostTurn u = .next t := by
  rcases step_cases h with ⟨p, u, _, _, hu, ht⟩ | ⟨p, _, _, ht⟩ | ⟨_, _, ht⟩ | ⟨_, _, i, u, _, hu, ht⟩
  · exact ⟨u, resume_onward hu, ht⟩
  · exact ⟨_, resetInProgress_onward p s, ht⟩
  · exact ⟨_, hardwareReset_onward s, ht⟩
  · exact ⟨u, exec_onward hu, ht⟩

/-- Settles O9: the operation moves the cursor from sample to sample, and the outside binds and extends only waveforms in
canonical form. -/
theorem stepKeepsMemoryInvariant : Obligations.StepKeepsMemoryInvariant := by
  intro s t hm h
  obtain ⟨u, hu, ht⟩ := step_onward h
  exact hostTurn_memoryInv (hu.cursor hm).1 ht

/-- While a run is on, the outside leaves the cursor where it is, and only adds samples. -/
theorem hostTurn_busy (h : hostTurn s = .next t) (hb : t.busy = true) :
    t.pos = s.pos ∧ ∀ a, s.mem.holds a = true → t.mem.holds a = true ∧ t.mem.level a = s.mem.level a := by
  rcases hostTurn_cases h with rfl | ⟨pins, script, mem, pos, ended, rfl, hc⟩
  · exact ⟨rfl, fun a ha => ⟨ha, rfl⟩⟩
  · rcases hc with ⟨rfl, rfl, _⟩ | ⟨_, rfl, es, stop, hx, rfl⟩ | ⟨hs, _⟩
    · exact ⟨rfl, fun a ha => ⟨ha, rfl⟩⟩
    · exact ⟨rfl, fun a ha => ⟨Memory.extend_holds hx ha, Memory.extend_level hx ((Memory.holds_iff _ _).mp ha).2⟩⟩
    · exact absurd (hb.symm.trans hs) (by decide)

/-- Settles O18. -/
theorem cursorNeverMovesBack : Obligations.CursorNeverMovesBack := by
  intro s t hm _ h hb
  obtain ⟨u, hu, ht⟩ := step_onward h
  rw [(hostTurn_busy ht hb).1]
  exact (hu.cursor hm).2

/-- Settles O19. -/
theorem samplesNeverChangeDuringARun : Obligations.SamplesNeverChangeDuringARun := by
  intro s t _ _ h hb a ha
  obtain ⟨u, hu, ht⟩ := step_onward h
  rw [← hu.outside.mem] at ha ⊢
  exact (hostTurn_busy ht hb).2 a ha

end

end Sys2Proof.Machine
end

section
/-! The invariant of a run (10_state.md R16, R17, R24, R30; 41_acquire_glitch.md R95): every operation of the core keeps it, an
operation in progress that goes on, a hardware reset and the outside's turn. -/

namespace Sys2Proof.Machine

section
variable {s t u : State}

/-! ## The parts of the invariant, one by one -/

/-- The phases in which `defer` may be set (10_state.md R21). -/
def deferPhases : List Phase := [.progress, .cancelchk, .measure, .glitch, .halt]

/-- From a phase that has no clause of its own in ControlInv to another, the assembler registers and `st` as they were. -/
theorem ControlInv.move (h : ControlInv s) (hs : s.ph ∉ [Phase.emit, .gapflush, .rstre])
    (hreg : t.layer = s.layer ∧ t.bits = s.bits ∧ t.acc = s.acc ∧ t.st = s.st)
    (ht : t.ph ∉ [Phase.emit, .gapflush, .rstre]) (hg : t.ph = .gapchk → s.st = .unknown)
    (hd : t.defer = true → t.ph ∈ deferPhases) (hh : t.haltReason = .none ↔ t.ph ≠ .halt) : ControlInv t := by
  obtain ⟨hl, hb, ha, hst⟩ := hreg
  obtain ⟨h1, h2, _, h4, _, h6, h7, _, h9, h10, h11, _⟩ := h
  simp only [List.mem_cons, List.not_mem_nil, or_false, not_or] at hs ht
  unfold ControlInv
  rw [hl, hb, ha, hst]
  refine ⟨h1, fun w hw => ?_, fun he => absurd he ht.1, h4, hd, ?_, ?_, hg, h9, h10, h11, hh⟩
  · exact (h2 w hw).imp_right fun g => absurd g.2 hs.1
  · exact ⟨fun g => absurd (h6.mp g) hs.2.1, fun g => absurd g ht.2.1⟩
  · exact ⟨fun g => absurd (h7.mp g) hs.2.2, fun g => absurd g ht.2.2⟩

theorem ControlInv.defer_false (h : ControlInv s) (hp : s.ph ∉ deferPhases) : s.defer = false := by
  cases hd : s.defer with
  | false => rfl
  | true => exact absurd (h.2.2.2.2.1 hd) hp

/-- In a phase other than HALT no reason to halt is recorded. -/
theorem ControlInv.haltReason (h : ControlInv s) (hp : s.ph ≠ .halt) : s.haltReason = .none :=
  h.2.2.2.2.2.2.2.2.2.2.2.mpr hp

theorem ConfigInv.move (h : ConfigInv s) (hreg : t.thr = s.thr ∧ t.params = s.params ∧ t.cfgRate = s.cfgRate)
    (hs : s.ph ∉ [Phase.idle, .start, .halt]) : ConfigInv t := by
  obtain ⟨h1, h2, h3⟩ := hreg
  intro _
  rw [h1, h2, h3]
  exact h hs

/-- With no operation in progress nothing is asked of the wait. -/
theorem waitInv_of_none (h : s.waiting = none) : WaitInv s := by
  simp [WaitInv, State.measuring, h]

theorem measuring_of_none (h : s.waiting = none) : s.measuring = false := by
  simp [State.measuring, h]

/-- Off a run nothing is asked of the cursor. -/
theorem cursorInv_of_off (hp : phaseOnPulse s.ph = false) (ho : phaseOffPulse s.ph = false) : CursorInv s := by
  refine ⟨fun h => absurd (h.symm.trans hp) (by decide), fun h => ?_, fun h => absurd (h.symm.trans ho) (by decide)⟩
  rw [h] at ho
  exact absurd ho (by decide)

theorem configInv_of_off (h : s.ph ∈ [Phase.idle, .start, .halt]) : ConfigInv s := fun hn => absurd h hn

/-- A run that ends. -/
theorem runInv_halt (hm : MemoryInv s) (hc : ControlInv s) (hs : s.ph ∉ [Phase.emit, .gapflush, .rstre])
    (hp : PortsIdle s) (hw : s.waiting = none) {r : HaltReason} (hr : r ≠ .none) :
    RunInv { s with haltReason := r, ph := .halt } where
  memory := hm
  control := hc.move hs ⟨rfl, rfl, rfl, rfl⟩ (by simp) (by simp) (by simp [deferPhases]) (by simp [hr])
  cursor _ := cursorInv_of_off rfl rfl
  config := configInv_of_off (by simp)
  ports := hp
  waits := waitInv_of_none hw

/-- Across the next edge the level turns over. -/
theorem level_of_nextEdge {e : Index} {l : Level} (hl : s.level = l) (he : s.mem.NextEdge s.pos.toNat e.toNat) :
    s.mem.level e.toNat = l.flip := by
  rw [Memory.level_nextEdge he, ← hl]
  rfl

/-! ## Measuring a pulse pair (41_acquire_glitch.md) -/

/-- What holds of MEASURE, GF_HIGH and GF_LOW between their commands, the cursor and the pulse pair apart. -/
structure Acquiring (s : State) : Prop where
  memory : MemoryInv s
  control : ControlInv s
  config : ConfigInv s
  ports : PortsIdle s
  phase : s.ph ∈ [Phase.measure, .glitch]
  notWaiting : s.waiting = none

theorem Acquiring.of_moved (h : Acquiring s) (hu : Moved s u) : Acquiring u := by
  obtain ⟨_, _, _, _, _, _, rfl, hp⟩ := hu
  exact ⟨⟨h.memory.1, (hp h.memory).1⟩, h.control, h.config, h.ports, h.phase, h.notWaiting⟩

/-- To the next edge, and writing registers of the pulse pair there. -/
theorem Acquiring.to_nextEdge (h : Acquiring s) {e : Index} (he : s.mem.NextEdge s.pos.toNat e.toNat)
    (rise fall highW : Index) (r : CurRsp) :
    Acquiring { s with pos := e, rise := rise, fall := fall, highW := highW, curRsp := r } :=
  h.of_moved ⟨e, rise, fall, highW, s.lowW, r, rfl, fun hm =>
    ⟨Memory.holds_of_nextEdge hm.2 he, BitVec.le_def.mpr (Nat.le_of_lt he.1)⟩⟩

theorem Acquiring.not_transient (h : Acquiring s) : s.ph ∉ [Phase.emit, .gapflush, .rstre] := by
  have hp := h.phase
  simp only [List.mem_cons, List.not_mem_nil, or_false] at hp
  rcases hp with hp | hp <;> simp [hp]

theorem Acquiring.not_off (h : Acquiring s) : s.ph ∉ [Phase.idle, .start, .halt] := by
  have hp := h.phase
  simp only [List.mem_cons, List.not_mem_nil, or_false] at hp
  rcases hp with hp | hp <;> simp [hp]

/-- What WaitInv asks of the cursor and the pulse pair at each of the points of a measurement. -/
def StandsAt (s : State) : WaitPoint → Prop
  | .risingEdge => s.level = .low
  | .fallingEdge => s.level = .high ∧ s.rise ≤ s.pos
  | .lowPulseEnd => s.level = .low ∧ s.pos = s.fall ∧ s.highW ≤ s.fall
  | .spikeEnd => s.level = .low ∧ s.pos = s.fall ∧ s.highW ≤ s.fall
  | .mergedPulseEnd => s.level = .high ∧ s.fall ≤ s.pos ∧ s.highW ≤ s.fall
  | .checkpoint => False
  | .samplePoint => False
  | .resetEnd => False

theorem measuring_of_standsAt {p : WaitPoint} (h : StandsAt s p) (hw : s.waiting = some p) : s.measuring = true := by
  cases p with
  | checkpoint | samplePoint | resetEnd => exact h.elim
  | _ => simp [State.measuring, hw]

theorem waitInv_of_standsAt {p : WaitPoint} (h : StandsAt s p) (hw : s.waiting = some p)
    (hl : s.params.stream = .live) (hp : s.ph ∈ [Phase.measure, .glitch]) : WaitInv s := by
  refine ⟨fun _ => hl, fun _ => hp, ?_⟩
  rw [hw]
  cases p with
  | checkpoint | samplePoint | resetEnd => exact h.elim
  | _ => simpa [StandsAt] using h

/-- An operation that waits is a measurement, CHKPT or SPOINT, and stands in its own phase. -/
theorem WaitInv.cases (h : WaitInv s) {p : WaitPoint} (hw : s.waiting = some p) :
    (StandsAt s p ∧ s.ph ∈ [Phase.measure, .glitch]) ∨ (p = .checkpoint ∧ s.ph = .chkpt) ∨
      (p = .samplePoint ∧ s.ph = .spoint) := by
  obtain ⟨_, hm, hc, hs, hr, h1, h2, h3, h4, h5⟩ := h
  have hph : StandsAt s p → s.ph ∈ [Phase.measure, .glitch] := fun hp => hm (measuring_of_standsAt hp hw)
  cases p with
  | risingEdge => exact .inl ⟨h1 hw, hph (h1 hw)⟩
  | fallingEdge => exact .inl ⟨h2 hw, hph (h2 hw)⟩
  | lowPulseEnd => exact .inl ⟨h3 hw, hph (h3 hw)⟩
  | spikeEnd => exact .inl ⟨h4 hw, hph (h4 hw)⟩
  | mergedPulseEnd => exact .inl ⟨h5 hw, hph (h5 hw)⟩
  | checkpoint => exact .inr (.inl ⟨rfl, hc hw⟩)
  | samplePoint => exact .inr (.inr ⟨rfl, hs hw⟩)
  | resetEnd => exact absurd hw hr

/-- A measurement that has to wait. -/
theorem Acquiring.waits (h : Acquiring s) {p : WaitPoint} (hp : StandsAt s p) (hl : s.source = .live) :
    RunInv { s with waiting := some p } := by
  have hp' : StandsAt { s with waiting := some p } p := hp
  exact ⟨h.memory, h.control, fun hm => absurd (hm.symm.trans (measuring_of_standsAt hp' rfl)) (by decide), h.config,
    h.ports, waitInv_of_standsAt hp' rfl (source_live_iff.mp hl).2 h.phase⟩

/-- Where there is no edge the stream is exhausted, or the measurement waits. -/
theorem Acquiring.stops (h : Acquiring s) {p : WaitPoint} (hp : StandsAt s p) {r : Res}
    (hf : s.source = .finite → r = .eos (answer s.pos true s))
    (hl : s.source = .live → r = .waits { s with waiting := some p }) (ht : finish r = .next t) : RunInv t := by
  cases hs : s.source with
  | finite =>
    rw [hf hs] at ht
    cases ht
    have ha := h.of_moved (answer_moved s.pos true s)
    exact runInv_halt ha.memory ha.control ha.not_transient ha.ports ha.notWaiting (by decide)
  | live =>
    rw [hl hs] at ht
    cases ht
    exact h.waits hp hs

/-- The pulse pair is measured. -/
theorem Acquiring.acquired (h : Acquiring s) (hp : StandsAt s .lowPulseEnd) {e : Index}
    (he : s.mem.NextEdge s.pos.toNat e.toNat) :
    RunInv { answer e false s with rise := e, lowW := e - s.fall, ph := .glitch } where
  memory := h.memory
  control := h.control.move h.not_transient ⟨rfl, rfl, rfl, rfl⟩ (by simp) (by simp) (by simp [deferPhases]) (by
      have hn : s.ph ≠ .halt := fun hh => h.not_off (by simp [hh])
      simp [h.control.haltReason hn])
  cursor _ := by
    obtain ⟨hl, hpf, hw⟩ := hp
    rw [hpf] at he
    refine ⟨fun _ => ⟨hpf, hl, he, rfl, hw⟩, ?_, ?_⟩ <;> intro hs <;> cases hs
  config := h.config.move ⟨rfl, rfl, rfl⟩ h.not_off
  ports := h.ports
  waits := waitInv_of_none h.notWaiting

theorem measureLow_runInv (h : Acquiring s) (hp : StandsAt s .lowPulseEnd) (ht : finish (measureLow s) = .next t) :
    RunInv t := by
  rcases nextEdge_cases h.memory s.pos.toNat with ⟨e, he⟩ | hn
  · rw [measureLow_eq h.memory he] at ht
    cases ht
    exact h.acquired hp he
  · exact h.stops hp (fun hf => measureLow_finite h.memory hf hn) (fun hl => measureLow_live h.memory hl hn) ht

theorem measureFromRise_runInv (h : Acquiring s) (hp : StandsAt s .fallingEdge)
    (ht : finish (measureFromRise s) = .next t) : RunInv t := by
  rcases nextEdge_cases h.memory s.pos.toNat with ⟨down, hd⟩ | hn
  · rw [measureFromRise_of_nextEdge h.memory hd] at ht
    refine measureLow_runInv (h.to_nextEdge hd s.rise down (down - s.rise) _) ⟨level_of_nextEdge hp.1 hd, rfl, ?_⟩ ht
    have := hp.2
    have := hd.1
    bv_omega
  · exact h.stops hp (fun hf => measureFromRise_finite h.memory hf hn)
      (fun hl => measureFromRise_live h.memory hl hn) ht

theorem measureFromLow_runInv (h : Acquiring s) (hp : StandsAt s .risingEdge)
    (ht : finish (measureFromLow s) = .next t) : RunInv t := by
  rcases nextEdge_cases h.memory s.pos.toNat with ⟨up, hu⟩ | hn
  · rw [measureFromLow_of_nextEdge h.memory hu] at ht
    exact measureFromRise_runInv (h.to_nextEdge hu up s.fall s.highW _)
      ⟨level_of_nextEdge hp hu, BitVec.le_refl _⟩ ht
  · exact h.stops hp (fun hf => measureFromLow_finite h.memory hf hn)
      (fun hl => measureFromLow_live h.memory hl hn) ht

theorem mergeHighPulse_runInv (h : Acquiring s) (hp : StandsAt s .mergedPulseEnd)
    (ht : finish (mergeHighPulse s) = .next t) : RunInv t := by
  rcases nextEdge_cases h.memory s.pos.toNat with ⟨down, hd⟩ | hn
  · rw [mergeHighPulse_of_nextEdge h.memory hd] at ht
    refine measureLow_runInv (h.to_nextEdge hd s.rise down (s.highW + (down - s.fall)) _)
      ⟨level_of_nextEdge hp.1 hd, rfl, ?_⟩ ht
    have := hp.2
    have := hd.1
    bv_omega
  · exact h.stops hp (fun hf => mergeHighPulse_finite h.memory hf hn)
      (fun hl => mergeHighPulse_live h.memory hl hn) ht

theorem skipLowSpike_runInv (h : Acquiring s) (hp : StandsAt s .spikeEnd)
    (ht : finish (skipLowSpike s) = .next t) : RunInv t := by
  rcases nextEdge_cases h.memory s.pos.toNat with ⟨up, hu⟩ | hn
  · rw [skipLowSpike_of_nextEdge h.memory hu] at ht
    obtain ⟨hl, hpf, hw⟩ := hp
    exact mergeHighPulse_runInv (h.to_nextEdge hu s.rise s.fall s.highW _)
      ⟨level_of_nextEdge hl hu, BitVec.le_def.mpr (hpf ▸ Nat.le_of_lt hu.1), hw⟩ ht
  · exact h.stops hp (fun hf => skipLowSpike_finite h.memory hf hn)
      (fun hl => skipLowSpike_live h.memory hl hn) ht

/-! ## The outside's turn and a reset -/

theorem hardwareReset_runInv (hm : MemoryInv s) (hp : PortsIdle s) : RunInv (hardwareReset s) where
  memory := hm
  control := by simp [ControlInv, layerWidth?]
  cursor _ := cursorInv_of_off rfl rfl
  config := configInv_of_off (by simp)
  ports := hp
  waits := waitInv_of_none rfl

/-- Delivered samples change nothing of what the invariant says of the cursor. -/
theorem CursorInv.extend (h : CursorInv s) (hm : MemoryInv s) {es : List Nat} {stop : Nat}
    (hx : s.mem.extends es stop = true) : CursorInv { s with mem := s.mem.extend es stop } := by
  have hl : ({ s with mem := s.mem.extend es stop } : State).level = s.level :=
    Memory.extend_level hx hm.bounds.2.1
  obtain ⟨h1, h2, h3⟩ := h
  refine ⟨fun hp => ?_, fun hp => ?_, fun hp => ⟨(h3 hp).1, fun hh => (h3 hp).2 (hl ▸ hh)⟩⟩
  · obtain ⟨g1, g2, g3, g4⟩ := h1 hp
    exact ⟨g1, hl.trans g2, Memory.extend_nextEdge hx g3, g4⟩
  · obtain ⟨g1, g2, g3⟩ := h2 hp
    have hb := hm.bounds
    exact ⟨g1, (Memory.extend_level hx (by bv_omega)).trans g2, Memory.extend_nextEdge hx g3⟩

theorem WaitInv.extend (h : WaitInv s) (hm : MemoryInv s) {es : List Nat} {stop : Nat}
    (hx : s.mem.extends es stop = true) : WaitInv { s with mem := s.mem.extend es stop } := by
  have hl : ({ s with mem := s.mem.extend es stop } : State).level = s.level :=
    Memory.extend_level hx hm.bounds.2.1
  simp only [WaitInv, hl]
  exact h

theorem not_busy_cases (hb : s.busy = false) : s.ph = .idle ∨ s.ph = .halt := by
  simpa [State.busy, State.idle, State.halted, or_iff_not_imp_left] using hb

/-- No operation is in progress while no run is on. -/
theorem WaitInv.none_of_not_busy (h : WaitInv s) (hb : s.busy = false) : s.waiting = none := by
  cases hw : s.waiting with
  | none => rfl
  | some p =>
    rcases h.cases hw with ⟨_, hp⟩ | ⟨_, hp⟩ | ⟨_, hp⟩ <;> rcases not_busy_cases hb with hn | hn <;> simp [hn] at hp

theorem hostTurn_runInv (h : RunInv s) (ht : hostTurn s = .next t) : RunInv t := by
  have hm := hostTurn_memoryInv h.memory ht
  rcases hostTurn_cases ht with rfl | ⟨pins, script, mem, pos, ended, rfl, hc⟩
  · exact h
  · rcases hc with ⟨rfl, rfl, _⟩ | ⟨_, rfl, es, stop, hx, rfl⟩ | ⟨hb, _⟩
    · exact ⟨hm, h.control, h.cursor, h.config, h.ports, h.waits⟩
    · exact ⟨hm, h.control, fun hn => (h.cursor hn).extend h.memory hx, h.config, h.ports,
        WaitInv.extend h.waits h.memory hx⟩
    · refine ⟨hm, h.control, fun _ => cursorInv_of_off ?_ ?_, h.config, h.ports,
        waitInv_of_none (h.waits.none_of_not_busy hb)⟩ <;>
      rcases not_busy_cases hb with hph | hph <;> simp only [hph] <;> rfl

end

end Sys2Proof.Machine
end

section
/-! The BitSampler's two operations (43_bit_sampler.md) where their command is answered, where the data ends on a stream that
can end, and where it has to wait. -/

namespace Sys2Proof.Machine

section
variable {s : State}

/-- Where CHKPT looks (43_bit_sampler.md R111). -/
def checkpointPos (s : State) : Index := s.pos + (checkpointAdvance s).setWidth 64

/-- Where SPOINT looks (43_bit_sampler.md R112). -/
def samplePointPos (s : State) : Index := s.pos + (samplePointAdvance s).setWidth 64

theorem readCheckpoint_high (h : MemoryInv s) (hn : s.pos.toNat + (checkpointAdvance s).toNat < s.mem.stop)
    (hl : s.mem.level (checkpointPos s).toNat = .high) :
    readCheckpoint s =
      .ok { emit (.marker (checkpointPos s) .invalid) (moveTo (checkpointPos s) s) with ph := .progress } := by
  have he : (moveTo (checkpointPos s) s).curRsp.level = .high := hl
  have ha : advBy (checkpointAdvance s) s = .ok (moveTo (checkpointPos s) s) := advBy_eq h hn
  simp only [readCheckpoint, ha, waitingAt_ok, andThen_ok, he]
  rfl

theorem readCheckpoint_low (h : MemoryInv s) (hn : s.pos.toNat + (checkpointAdvance s).toNat < s.mem.stop)
    (hl : s.mem.level (checkpointPos s).toNat = .low) :
    readCheckpoint s = .ok { moveTo (checkpointPos s) s with ph := .spoint } := by
  have he : (moveTo (checkpointPos s) s).curRsp.level = .low := hl
  have ha : advBy (checkpointAdvance s) s = .ok (moveTo (checkpointPos s) s) := advBy_eq h hn
  simp only [readCheckpoint, ha, waitingAt_ok, andThen_ok, he]

theorem readSamplePoint_high (h : MemoryInv s) (hn : s.pos.toNat + (samplePointAdvance s).toNat < s.mem.stop)
    (hl : s.mem.level (samplePointPos s).toNat = .high) :
    readSamplePoint s =
      .ok { emit (.marker (samplePointPos s) .one) (moveTo (samplePointPos s) s) with bit := true, ph := .asm } := by
  have he : (moveTo (samplePointPos s) s).curRsp.level = .high := hl
  have ha : advBy (samplePointAdvance s) s = .ok (moveTo (samplePointPos s) s) := advBy_eq h hn
  simp only [readSamplePoint, ha, waitingAt_ok, andThen_ok, he]
  rfl

theorem readSamplePoint_low (h : MemoryInv s) (hn : s.pos.toNat + (samplePointAdvance s).toNat < s.mem.stop)
    (hl : s.mem.level (samplePointPos s).toNat = .low) :
    readSamplePoint s =
      .ok { emit (.marker (samplePointPos s) .zero) (moveTo (samplePointPos s) s) with bit := false, ph := .asm } := by
  have he : (moveTo (samplePointPos s) s).curRsp.level = .low := hl
  have ha : advBy (samplePointAdvance s) s = .ok (moveTo (samplePointPos s) s) := advBy_eq h hn
  simp only [readSamplePoint, ha, waitingAt_ok, andThen_ok, he]
  rfl

theorem advBy_finite (h : MemoryInv s) (hf : s.source = .finite) {n : BitVec 32}
    (hn : s.mem.stop ≤ s.pos.toNat + n.toNat) : advBy n s = .eos (answer s.pos true s) := by
  rcases advBy_cases h n with ⟨h1, _⟩ | ⟨_, h2, _⟩ | ⟨_, h3⟩
  · omega
  · rw [hf] at h2
    cases h2
  · rw [h3, endOfData_finite hf]

theorem readCheckpoint_finite (h : MemoryInv s) (hf : s.source = .finite)
    (hn : s.mem.stop ≤ s.pos.toNat + (checkpointAdvance s).toNat) : readCheckpoint s = .eos (answer s.pos true s) := by
  simp only [readCheckpoint, advBy_finite h hf hn, waitingAt_eos, andThen_eos]

theorem readSamplePoint_finite (h : MemoryInv s) (hf : s.source = .finite)
    (hn : s.mem.stop ≤ s.pos.toNat + (samplePointAdvance s).toNat) :
    readSamplePoint s = .eos (answer s.pos true s) := by
  simp only [readSamplePoint, advBy_finite h hf hn, waitingAt_eos, andThen_eos]

theorem readCheckpoint_live (h : MemoryInv s) (hl : s.source = .live)
    (hn : s.mem.stop ≤ s.pos.toNat + (checkpointAdvance s).toNat)
    (hb : s.pos.toNat + (checkpointAdvance s).toNat < 2 ^ 64) :
    readCheckpoint s = .waits { s with waiting := some .checkpoint } := by
  simp only [readCheckpoint, advBy_live h hl hn hb, waitingAt_waits, andThen_waits]

theorem readSamplePoint_live (h : MemoryInv s) (hl : s.source = .live)
    (hn : s.mem.stop ≤ s.pos.toNat + (samplePointAdvance s).toNat)
    (hb : s.pos.toNat + (samplePointAdvance s).toNat < 2 ^ 64) :
    readSamplePoint s = .waits { s with waiting := some .samplePoint } := by
  simp only [readSamplePoint, advBy_live h hl hn hb, waitingAt_waits, andThen_waits]

/-- All that an advance at the start of an operation of the core can lead to that ends in a next state: a position inside the
data; or past it, the stream exhausted or the operation waiting. -/
theorem advance_cases (h : MemoryInv s) {n : BitVec 32} {p : WaitPoint} {k : State → Res} {t : State}
    (ht : finish (((advBy n s).waitingAt p).andThen k) = .next t) :
    (s.pos.toNat + n.toNat < s.mem.stop ∧ (s.pos + n.setWidth 64).toNat = s.pos.toNat + n.toNat) ∨
      (s.source = .finite ∧ t = raise .streamExhausted (answer s.pos true s)) ∨
      (s.source = .live ∧ t = { s with waiting := some p }) := by
  rcases advBy_cases h n with ⟨hn, _⟩ | ⟨_, _, _, hr⟩ | ⟨_, he⟩
  · exact .inl ⟨hn, advBy_pos h hn⟩
  · rw [hr] at ht
    cases ht
  · cases hs : s.source with
    | finite =>
      rw [he, endOfData_finite hs] at ht
      exact .inr (.inl ⟨rfl, (Host.Outcome.next.inj ht).symm⟩)
    | live =>
      rw [he, endOfData_live hs] at ht
      exact .inr (.inr ⟨rfl, (Host.Outcome.next.inj ht).symm⟩)

end

end Sys2Proof.Machine
end

section
/-! Each operation of the core keeps the invariant of a run, in the order of the phases (45_decode_loop.md R130). -/

namespace Sys2Proof.Machine

section
variable {s t : State}

theorem RunInv.cursorInv (h : RunInv s) (hw : s.waiting = none) : CursorInv s := h.cursor (measuring_of_none hw)

theorem RunInv.acquiring (h : RunInv s) (hw : s.waiting = none) (hp : s.ph ∈ [Phase.measure, .glitch]) : Acquiring s :=
  ⟨h.memory, h.control, h.config, h.ports, hp, hw⟩

/-- An operation in progress that is no measurement is, but for the wait, a state of a run. -/
theorem RunInv.resumed (h : RunInv s) (hm : s.measuring = false) : RunInv { s with waiting := none } :=
  ⟨h.memory, h.control, fun _ => h.cursor hm, h.config, h.ports, waitInv_of_none rfl⟩

theorem RunInv.acquiring_resumed (h : RunInv s) (hp : s.ph ∈ [Phase.measure, .glitch]) :
    Acquiring { s with waiting := none } :=
  ⟨h.memory, h.control, h.config, h.ports, hp, rfl⟩

/-! ## MEASURE and GLITCH -/

theorem exec_measure_runInv (h : RunInv s) (hw : s.waiting = none) (hp : s.ph = .measure)
    (ht : exec .measure s = .next t) : RunInv t := by
  have ha : Acquiring (answer s.pos false s) := (h.acquiring hw (by simp [hp])).of_moved (answer_moved _ _ _)
  change execMeasure s = _ at ht
  rw [execMeasure_eq h.memory] at ht
  cases hl : s.level with
  | low =>
    rw [hl] at ht
    exact measureFromLow_runInv ha hl ht
  | high =>
    rw [hl] at ht
    exact measureFromRise_runInv ha ⟨hl, ((h.cursorInv hw).2.2 (by rw [hp]; rfl)).2 hl⟩ ht

/-- In phase GLITCH the cursor stands on the falling edge of the pair. -/
theorem RunInv.standsAt_spikeEnd (h : RunInv s) (hw : s.waiting = none) (hp : s.ph = .glitch) : StandsAt s .spikeEnd := by
  obtain ⟨hpf, hl, _, _, hh⟩ := (h.cursorInv hw).1 (by rw [hp]; rfl)
  exact ⟨hl, hpf, hh⟩

theorem exec_gfHigh_runInv (h : RunInv s) (hw : s.waiting = none) (hp : s.ph = .glitch)
    (ht : exec .gfHigh s = .next t) : RunInv t := by
  have ha : Acquiring (raise .glitch s) := ⟨h.memory, h.control, h.config, h.ports, by simp [hp], hw⟩
  exact measureFromLow_runInv ha (h.standsAt_spikeEnd hw hp).1 ht

theorem exec_gfLow_runInv (h : RunInv s) (hw : s.waiting = none) (hp : s.ph = .glitch)
    (ht : exec .gfLow s = .next t) : RunInv t := by
  have ha : Acquiring (raise .glitch s) := ⟨h.memory, h.control, h.config, h.ports, by simp [hp], hw⟩
  exact skipLowSpike_runInv ha (h.standsAt_spikeEnd hw hp) ht

/-! ## The decode loop on the pulse -/

/-- On the pulse, from phase to phase, the pulse pair and the cursor as they were. -/
theorem CursorInv.onPulse (h : CursorInv s)
    (hreg : t.pos = s.pos ∧ t.mem = s.mem ∧ t.rise = s.rise ∧ t.fall = s.fall ∧ t.highW = s.highW ∧ t.lowW = s.lowW)
    (hs : phaseOnPulse s.ph = true) (ht : phaseOnPulse t.ph = true) : CursorInv t := by
  obtain ⟨h1, h2, h3, h4, h5, h6⟩ := hreg
  have hoff : phaseOffPulse t.ph = false := by
    revert ht
    cases t.ph <;> decide
  refine ⟨fun _ => ?_, fun hsp => ?_, fun ho => absurd (ho.symm.trans hoff) (by decide)⟩
  · have := h.1 hs
    simp only [State.level, h1, h2, h3, h4, h5, h6]
    exact this
  · rw [hsp] at hoff
    cases hoff

/-- From phase to phase on the pulse. -/
theorem RunInv.onPulse (h : RunInv s) (hw : s.waiting = none) (hs : phaseOnPulse s.ph = true)
    (ht : phaseOnPulse t.ph = true) (hc : ControlInv t)
    (hreg : t.pos = s.pos ∧ t.mem = s.mem ∧ t.rise = s.rise ∧ t.fall = s.fall ∧ t.highW = s.highW ∧ t.lowW = s.lowW)
    (hcfg : t.thr = s.thr ∧ t.params = s.params ∧ t.cfgRate = s.cfgRate)
    (hp : t.curCmd = s.curCmd ∧ t.snkWord = s.snkWord ∧ t.waiting = s.waiting) : RunInv t where
  memory := by
    show t.mem.wf = true ∧ t.mem.holds t.pos.toNat = true
    rw [hreg.1, hreg.2.1]
    exact h.memory
  control := hc
  cursor _ := (h.cursorInv hw).onPulse hreg hs ht
  config := h.config.move hcfg (by revert hs; cases s.ph <;> decide)
  ports := ⟨hp.1.trans h.ports.1, hp.2.1.trans h.ports.2⟩
  waits := waitInv_of_none (hp.2.2.trans hw)

theorem exec_gfPass_runInv (h : RunInv s) (hw : s.waiting = none) (hp : s.ph = .glitch)
    (ht : exec .gfPass s = .next t) : RunInv t := by
  cases ht
  refine h.onPulse hw (by rw [hp]; rfl) (by split <;> rfl) ?_ ⟨rfl, rfl, rfl, rfl, rfl, rfl⟩ ⟨rfl, rfl, rfl⟩ ⟨rfl, rfl, rfl⟩
  have hr := h.control.haltReason (by simp [hp])
  by_cases hst : s.st = .unknown <;>
    exact h.control.move (by simp [hp]) ⟨rfl, rfl, rfl, rfl⟩ (by simp [hst]) (by simp [hst]) (by simp) (by simp [hst, hr])

theorem exec_gapchk_runInv (h : RunInv s) (hw : s.waiting = none) (hp : s.ph = .gapchk)
    (ht : exec .gapchk s = .next t) : RunInv t := by
  have hon : phaseOnPulse s.ph = true := by rw [hp]; rfl
  have hr := h.control.haltReason (by simp [hp])
  have hd := h.control.defer_false (by simp [hp, deferPhases])
  rcases exec_gapchk_cases ht with rfl | rfl <;>
    refine h.onPulse hw hon rfl ?_ ⟨rfl, rfl, rfl, rfl, rfl, rfl⟩ ⟨rfl, rfl, rfl⟩ ⟨rfl, rfl, rfl⟩
  · obtain ⟨h1, _, _, h4, _, _, _, h8, h9, _⟩ := h.control
    have hl := h9 (h8 hp)
    have := h1 hl
    simp_all [ControlInv, layerWidth?]
  · exact h.control.move (by simp [hp]) ⟨rfl, rfl, rfl, rfl⟩ (by simp) (by simp) (by simp [hd]) (by simp [hr])

/-- Decoding is entered at bit 0 of the Data layer, outside the phases with a clause of their own. -/
theorem controlInv_enterDecoding (hl : t.layer = .data) (hb : t.bits = 0) (ha : t.acc = 0) (hst : t.st = .decoding)
    (hp : t.ph ∉ [Phase.emit, .gapchk, .gapflush, .rstre, .halt]) (hd : t.defer = true → t.ph ∈ deferPhases)
    (hr : t.haltReason = .none) : ControlInv t := by
  simp only [List.mem_cons, List.not_mem_nil, or_false, not_or] at hp
  obtain ⟨he, hg, hf, hre, hh⟩ := hp
  simp only [ControlInv, hl, hb, ha, hst, hr, he, hg, hf, hre]
  simpa [layerWidth?, deferPhases, hh] using hd

theorem exec_gapflush_runInv (h : RunInv s) (hw : s.waiting = none) (hp : s.ph = .gapflush)
    (ht : exec .gapflush s = .next t) : RunInv t := by
  cases ht
  refine h.onPulse hw (by rw [hp]; rfl) rfl ?_ ⟨rfl, rfl, rfl, rfl, rfl, rfl⟩ ⟨rfl, rfl, rfl⟩ ⟨rfl, rfl, rfl⟩
  have hr := h.control.haltReason (by simp [hp])
  have hd := h.control.defer_false (by simp [hp, deferPhases])
  exact controlInv_enterDecoding rfl rfl rfl rfl (by simp) (by simp [hd]) hr

theorem exec_rstchk_runInv (h : RunInv s) (hw : s.waiting = none) (hp : s.ph = .rstchk)
    (ht : exec .rstchk s = .next t) : RunInv t := by
  have hon : phaseOnPulse s.ph = true := by rw [hp]; rfl
  have hr := h.control.haltReason (by simp [hp])
  have hd := h.control.defer_false (by simp [hp, deferPhases])
  rcases exec_rstchk_cases ht with rfl | ⟨_, rfl⟩ <;>
    refine h.onPulse hw hon rfl ?_ ⟨rfl, rfl, rfl, rfl, rfl, rfl⟩ ⟨rfl, rfl, rfl⟩ ⟨rfl, rfl, rfl⟩ <;>
    exact h.control.move (by simp [hp]) ⟨rfl, rfl, rfl, rfl⟩ (by simp) (by simp) (by simp [hd]) (by simp [hr])

/-! ## The decode loop off the pulse -/

/-- From phase to phase off the pulse, SPOINT apart, the cursor and the pulse pair as they were. -/
theorem RunInv.offPulse (h : RunInv s) (hw : s.waiting = none) (hs : phaseOffPulse s.ph = true)
    (ht : phaseOffPulse t.ph = true) (hn : t.ph ≠ .spoint) (hc : ControlInv t)
    (hreg : t.pos = s.pos ∧ t.mem = s.mem ∧ t.rise = s.rise ∧ t.fall = s.fall)
    (hcfg : t.thr = s.thr ∧ t.params = s.params ∧ t.cfgRate = s.cfgRate)
    (hp : t.curCmd = s.curCmd ∧ t.snkWord = s.snkWord ∧ t.waiting = s.waiting) : RunInv t where
  memory := by
    show t.mem.wf = true ∧ t.mem.holds t.pos.toNat = true
    rw [hreg.1, hreg.2.1]
    exact h.memory
  control := hc
  cursor _ := by
    have hon : phaseOnPulse t.ph = false := by
      revert ht
      cases t.ph <;> decide
    refine ⟨fun ho => absurd (ho.symm.trans hon) (by decide), fun hsp => absurd hsp hn, fun _ => ?_⟩
    have := (h.cursorInv hw).2.2 hs
    simp only [State.level, hreg]
    exact this
  config := h.config.move hcfg (by revert hs; cases s.ph <;> decide)
  ports := ⟨hp.1.trans h.ports.1, hp.2.1.trans h.ports.2⟩
  waits := waitInv_of_none (hp.2.2.trans hw)

theorem exec_rstre_runInv (h : RunInv s) (hw : s.waiting = none) (hp : s.ph = .rstre)
    (ht : exec .rstre s = .next t) : RunInv t := by
  cases ht
  refine h.offPulse hw (by rw [hp]; rfl) rfl (by simp) ?_ ⟨rfl, rfl, rfl, rfl⟩ ⟨rfl, rfl, rfl⟩ ⟨rfl, rfl, rfl⟩
  exact controlInv_enterDecoding rfl rfl rfl rfl (by simp) (by simp [deferPhases]) (h.control.haltReason (by simp [hp]))

theorem exec_progress_runInv (h : RunInv s) (hw : s.waiting = none) (hp : s.ph = .progress)
    (ht : exec .progress s = .next t) : RunInv t := by
  obtain ⟨_, rfl⟩ := exec_progress_cases ht
  refine h.offPulse hw (by rw [hp]; rfl) rfl (by simp) ?_ ⟨rfl, rfl, rfl, rfl⟩ ⟨rfl, rfl, rfl⟩ ⟨rfl, rfl, rfl⟩
  exact h.control.move (by simp [hp]) ⟨rfl, rfl, rfl, rfl⟩ (by simp) (by simp) (by simp [deferPhases])
    (by simp [h.control.haltReason, hp])

theorem exec_cancelchk_runInv (h : RunInv s) (hw : s.waiting = none) (hp : s.ph = .cancelchk)
    (ht : exec .cancelchk s = .next t) : RunInv t := by
  rcases exec_cancelchk_cases ht with ⟨_, rfl⟩ | rfl
  · exact runInv_halt h.memory h.control (by simp [hp]) h.ports hw (by decide)
  · refine h.offPulse hw (by rw [hp]; rfl) rfl (by simp) ?_ ⟨rfl, rfl, rfl, rfl⟩ ⟨rfl, rfl, rfl⟩ ⟨rfl, rfl, rfl⟩
    exact h.control.move (by simp [hp]) ⟨rfl, rfl, rfl, rfl⟩ (by simp) (by simp) (by simp [deferPhases])
      (by simp [h.control.haltReason, hp])

/-! ### ASM and EMIT (44_frame_assembler.md) -/

theorem layerWidth?_le {l : FrameLayer} {w : BitVec 6} (h : layerWidth? l = some w) : w ≤ 48 := by
  cases l <;> simp [layerWidth?] at h <;> subst h <;> decide

/-- The bit taken is put above those that are there (44_frame_assembler.md R120). -/
theorem acceptBit_acc_toNat (h : s.acc.toNat < 2 ^ s.bits.toNat) (hb : s.bits < 48) :
    (acceptBit s).acc.toNat = s.acc.toNat + 2 ^ s.bits.toNat * s.bit.toNat := by
  have hlt : s.bits.toNat < 48 := BitVec.lt_def.mp hb
  have hv : (bitValue s.bit <<< s.bits.toNat).toNat = 2 ^ s.bits.toNat * s.bit.toNat := by
    cases s.bit with
    | false => simp [bitValue]
    | true =>
      have h48 : 2 ^ s.bits.toNat < 2 ^ 48 := Nat.pow_lt_pow_right (by decide) hlt
      simpa [bitValue, Nat.shiftLeft_eq] using h48
  rw [acceptBit_acc, BitVec.toNat_or, hv, Nat.or_comm, ← Nat.two_pow_add_eq_or_of_lt h, Nat.add_comm]

/-- An accepted bit leaves the counter below the width, or at it and the field about to be sent (10_state.md R16, R17). -/
theorem controlInv_acceptBit (h : ControlInv s) (hp : s.ph = .asm) {w : BitVec 6} (hw : layerWidth? s.layer = some w) :
    ControlInv { acceptBit s with ph := if s.bits + 1 = w then .emit else .progress } := by
  have hr := h.haltReason (by simp [hp])
  have hd := h.defer_false (by simp [hp, deferPhases])
  obtain ⟨_, h2, _, h4, _, h6, h7, _, h9, h10, h11, _⟩ := h
  have hlt : s.bits < w := (h2 w hw).resolve_right (by simp [hp])
  have h48 := layerWidth?_le hw
  have hacc := acceptBit_acc_toNat h4 (by bv_omega)
  have hbits : (s.bits + 1).toNat = s.bits.toNat + 1 := by bv_omega
  have hle : s.bits + 1 ≠ w → s.bits + 1 < w := by bv_omega
  have hlu : s.layer ≠ .unknown := fun hu => by simp [hu, layerWidth?] at hw
  have hbound : (acceptBit s).acc.toNat < 2 ^ (s.bits + 1).toNat := by
    rw [hacc, hbits, Nat.pow_succ]
    have hb := Bool.toNat_le s.bit
    have := Nat.mul_le_mul_left (2 ^ s.bits.toNat) hb
    omega
  refine ⟨fun hu => absurd hu hlu, fun w' hw' => ?_, fun he => ?_, hbound, fun hdt => ?_, ?_, ?_, fun hg => ?_, h9, h10, h11, ?_⟩
  · obtain rfl : w = w' := Option.some.inj (hw.symm.trans hw')
    by_cases he : s.bits + 1 = w
    · exact .inr ⟨he, if_pos he⟩
    · exact .inl (hle he)
  · by_cases hf : s.bits + 1 = w
    · exact hw.trans (congrArg some hf.symm)
    · exact absurd (he.symm.trans (if_neg hf)) (by decide)
  · simp [hd] at hdt
  · split <;> simpa [hp] using h6
  · split <;> simpa [hp] using h7
  · split at hg <;> simp at hg
  · split <;> simp [hr]

theorem exec_asm_runInv (h : RunInv s) (hw : s.waiting = none) (hp : s.ph = .asm)
    (ht : exec .asm s = .next t) : RunInv t := by
  rcases exec_asm_cases ht with ⟨_, rfl⟩ | ⟨w, hlw, rfl⟩
  · have hr := h.control.haltReason (by simp [hp])
    have hd := h.control.defer_false (by simp [hp, deferPhases])
    refine h.offPulse hw (by rw [hp]; rfl) rfl (by simp) ?_ ⟨rfl, rfl, rfl, rfl⟩ ⟨rfl, rfl, rfl⟩ ⟨rfl, rfl, rfl⟩
    exact h.control.move (by simp [hp]) ⟨rfl, rfl, rfl, rfl⟩ (by simp) (by simp) (by simp [hd]) (by simp [hr])
  · exact h.offPulse hw (by rw [hp]; rfl) (by dsimp only; split <;> rfl) (by dsimp only; split <;> simp)
      (controlInv_acceptBit h.control hp hlw) ⟨rfl, rfl, rfl, rfl⟩ ⟨rfl, rfl, rfl⟩ ⟨rfl, rfl, rfl⟩

/-- In phase EMIT a field of one of the three layers is full. -/
theorem ControlInv.layer_of_emit (h : ControlInv s) (hp : s.ph = .emit) : s.layer ≠ .unknown := by
  intro hl
  have := h.2.2.1 hp
  rw [hl] at this
  cases this

theorem exec_emit_runInv (h : RunInv s) (hw : s.waiting = none) (hp : s.ph = .emit)
    (ht : exec .emit s = .next t) : RunInv t := by
  cases ht
  refine h.offPulse hw (by rw [hp]; rfl) rfl (by simp) ?_ ⟨rfl, rfl, rfl, rfl⟩ ⟨rfl, rfl, rfl⟩ ⟨rfl, rfl, rfl⟩
  have hlu := h.control.layer_of_emit hp
  have hr := h.control.haltReason (by simp [hp])
  obtain ⟨_, _, _, _, _, h6, h7, _, h9, _⟩ := h.control
  have hunknown : s.st ≠ .unknown := fun hs => hlu (h9 hs)
  have hgap : s.st ≠ .newTransactionGap := fun hs => by simp [h6.mp hs] at hp
  have hreset : s.st ≠ .resetObserved := fun hs => by simp [h7.mp hs] at hp
  cases hl : s.layer with
  | unknown => exact absurd hl hlu
  | data | command | crc => simp [ControlInv, layerWidth?, layerNext, hr, hunknown, hgap, hreset]

/-! ## In and out of a run -/

theorem exec_idle_runInv (h : RunInv s) (hw : s.waiting = none) (hp : s.ph = .idle)
    (ht : exec .idle s = .next t) : RunInv t := by
  cases ht
  have hd := h.control.defer_false (by simp [hp, deferPhases])
  have hr := h.control.haltReason (by simp [hp])
  have hph : (if s.pins.start = true then Phase.start else .idle) ∈ [Phase.start, .idle] := by split <;> simp
  simp only [List.mem_cons, List.not_mem_nil, or_false] at hph
  refine ⟨h.memory, h.control.move (by simp [hp]) ⟨rfl, rfl, rfl, rfl⟩ ?_ ?_ (by simp [hd]) ?_, fun _ => cursorInv_of_off ?_ ?_,
    configInv_of_off ?_, h.ports, waitInv_of_none hw⟩ <;>
  rcases hph with hph | hph <;> simp [hph, hr, phaseOnPulse, phaseOffPulse]

theorem exec_start_runInv (h : RunInv s) (hw : s.waiting = none) (hp : s.ph = .start)
    (ht : exec .start s = .next t) : RunInv t := by
  rcases exec_start_cases ht with ⟨_, rfl⟩ | ⟨ha, hb, a, rfl⟩
  · exact runInv_halt h.memory h.control (by simp [hp]) h.ports hw (by decide)
  · simp only [configurationBad, Bool.or_eq_false_iff, decide_eq_false_iff_not, Nat.not_lt] at hb
    refine ⟨h.memory, by simp [ControlInv, layerWidth?], fun _ => ?_, fun _ => ⟨rfl, ha, hb.1⟩, h.ports, waitInv_of_none hw⟩
    exact ⟨fun hon => by simp [phaseOnPulse] at hon, fun hsp => by simp at hsp,
      fun _ => ⟨BitVec.le_def.mpr (Nat.zero_le _), fun _ => BitVec.le_refl _⟩⟩

theorem exec_halt_runInv (h : RunInv s) (hw : s.waiting = none) (hp : s.ph = .halt)
    (ht : exec .halt s = .next t) : RunInv t := by
  cases ht
  have hs : ({ s with ph := .halt } : State) = s := by
    cases s
    cases hp
    rfl
  rw [hs]
  exact h

/-! ## RSTACC and the BitSampler -/

/-- From the falling edge of a low pulse on, where the level is High the pulse is over. -/
theorem rise_le_of_high {m : Memory} {fall rise p : Index} (hl : m.level fall.toNat = .low)
    (he : m.NextEdge fall.toNat rise.toNat) (hf : fall ≤ p) (hp : m.level p.toNat = .high) : rise ≤ p := by
  by_contra hn
  rcases Nat.lt_or_eq_of_le (BitVec.le_def.mp hf) with hlt | heq
  · have := he.2.2.2 p.toNat (by bv_omega) hlt
    rw [hp, hl] at this
    cases this
  · rw [heq, hp] at hl
    cases hl

/-- In phase RSTACC the end of the reset pulse is there: the operation never waits and is never exhausted. -/
theorem exec_rstacc_of_nextEdge (hm : MemoryInv s) {e : Index} (he : s.mem.NextEdge s.pos.toNat e.toNat) :
    exec .rstacc s = .next { moveTo e (acceptReset s) with ph := .rstre } := by
  have ha : advEdge (acceptReset s) = .ok (moveTo e (acceptReset s)) := advEdge_eq (s := acceptReset s) hm he
  change finish (leaveReset (acceptReset s)) = _
  simp only [leaveReset, ha, waitingAt_ok, andThen_ok, finish_ok]

theorem exec_rstacc_runInv (h : RunInv s) (hw : s.waiting = none) (hp : s.ph = .rstacc)
    (ht : exec .rstacc s = .next t) : RunInv t := by
  obtain ⟨hpf, _, he, _⟩ := (h.cursorInv hw).1 (by rw [hp]; rfl)
  rw [← hpf] at he
  rw [exec_rstacc_of_nextEdge h.memory he] at ht
  cases ht
  have hr := h.control.haltReason (by simp [hp])
  have hd := h.control.defer_false (by simp [hp, deferPhases])
  obtain ⟨h1, h2, _, h4, _⟩ := h.control
  refine ⟨⟨h.memory.1, Memory.holds_of_nextEdge h.memory.2 he⟩, ?_, fun _ => ?_,
    h.config.move ⟨rfl, rfl, rfl⟩ (by simp [hp]), h.ports, waitInv_of_none hw⟩
  · refine ⟨h1, fun w hlw => (h2 w hlw).imp_right fun g => ?_, by simp, h4, by simp [hd], by simp, by simp, by simp,
      by simp, by simp, by simp, by simp [hr]⟩
    simp [hp] at g
  · have hfr : s.fall ≤ s.rise := BitVec.le_def.mpr (Nat.le_of_lt (hpf ▸ he.1))
    exact ⟨fun hon => by simp [phaseOnPulse] at hon, fun hsp => by simp at hsp, fun _ => ⟨hfr, fun _ => BitVec.le_refl _⟩⟩

/-- CHKPT and SPOINT begin on a low pulse or past it, with `rise` at its end. -/
theorem RunInv.slot (h : RunInv s) (hw : s.waiting = none) (hp : s.ph ∈ [Phase.chkpt, .spoint]) :
    s.fall ≤ s.pos ∧ s.mem.level s.fall.toNat = .low ∧ s.mem.NextEdge s.fall.toNat s.rise.toNat := by
  obtain ⟨hon, hsp, _⟩ := h.cursorInv hw
  simp only [List.mem_cons, List.not_mem_nil, or_false] at hp
  rcases hp with hp | hp
  · obtain ⟨hpf, hl, he, _⟩ := hon (by rw [hp]; rfl)
    exact ⟨hpf ▸ BitVec.le_refl _, hpf ▸ hl, he⟩
  · exact hsp hp

/-- The cursor advanced inside the data, by CHKPT or SPOINT. -/
theorem RunInv.advance (h : RunInv s) (hw : s.waiting = none) (hp : s.ph ∈ [Phase.chkpt, .spoint]) {n : BitVec 32}
    (hn : s.pos.toNat + n.toNat < s.mem.stop) {q : Phase} (hq : q ∈ [Phase.progress, .spoint, .asm]) (rs : List Record)
    (b : Bool) : RunInv { moveTo (s.pos + n.setWidth 64) s with ph := q, sink := rs, bit := b } := by
  have hpos := advBy_pos h.memory hn
  obtain ⟨hfp, hl, he⟩ := h.slot hw hp
  have hfp' : s.fall ≤ s.pos + n.setWidth 64 := BitVec.le_def.mpr (by have := BitVec.le_def.mp hfp; omega)
  have hfr : s.fall ≤ s.rise := BitVec.le_def.mpr (Nat.le_of_lt he.1)
  have hm : s.mem.holds (s.pos + n.setWidth 64).toNat = true := by
    have := h.memory.bounds
    rw [Memory.holds_iff]
    omega
  have hs : s.ph ∉ [Phase.emit, .gapflush, .rstre] ∧ s.ph ∉ deferPhases ∧ s.ph ∉ [Phase.idle, .start, .halt] := by
    revert hp
    cases s.ph <;> decide
  have hr := h.control.haltReason fun hh => hs.2.2 (by simp [hh])
  have hd := h.control.defer_false hs.2.1
  have ht : q ∉ [Phase.emit, .gapflush, .rstre, .gapchk, .halt] ∧ phaseOnPulse q = false := by
    revert hq
    cases q <;> decide
  simp only [List.mem_cons, List.not_mem_nil, or_false, not_or] at ht
  refine ⟨⟨h.memory.1, hm⟩, h.control.move hs.1 ⟨rfl, rfl, rfl, rfl⟩ (by simp [ht]) (by simp [ht]) (by simp [hd])
    (by simp [hr, ht]), fun _ => ⟨fun hon => ?_, fun _ => ⟨hfp', hl, he⟩, fun _ => ⟨hfr, fun hh => ?_⟩⟩,
    h.config.move ⟨rfl, rfl, rfl⟩ hs.2.2, h.ports, waitInv_of_none hw⟩
  · exact absurd (hon.symm.trans ht.2) (by decide)
  · exact rise_le_of_high hl he hfp' hh

/-- CHKPT and SPOINT where the data ends. -/
theorem RunInv.advance_exhausted (h : RunInv s) (hw : s.waiting = none) (hp : s.ph ∈ [Phase.chkpt, .spoint]) :
    RunInv (raise .streamExhausted (answer s.pos true s)) := by
  have hs : s.ph ∉ [Phase.emit, .gapflush, .rstre] := by
    revert hp
    cases s.ph <;> decide
  exact runInv_halt (s := answer s.pos true s) h.memory h.control hs h.ports hw (by decide)

theorem readCheckpoint_runInv (h : RunInv s) (hw : s.waiting = none) (hp : s.ph = .chkpt)
    (ht : finish (readCheckpoint s) = .next t) : RunInv t := by
  have hq : s.ph ∈ [Phase.chkpt, .spoint] := by simp [hp]
  rcases advance_cases h.memory ht with ⟨hn, _⟩ | ⟨_, rfl⟩ | ⟨hs, rfl⟩
  · cases hlv : s.mem.level (checkpointPos s).toNat with
    | high =>
      rw [readCheckpoint_high h.memory hn hlv] at ht
      cases ht
      exact h.advance hw hq hn (q := .progress) (by simp) _ s.bit
    | low =>
      rw [readCheckpoint_low h.memory hn hlv] at ht
      cases ht
      exact h.advance hw hq hn (q := .spoint) (by simp) s.sink s.bit
  · exact h.advance_exhausted hw hq
  · exact ⟨h.memory, h.control, fun _ => h.cursorInv hw, h.config, h.ports,
      by simp [WaitInv, State.measuring, hp, (source_live_iff.mp hs).2]⟩

theorem readSamplePoint_runInv (h : RunInv s) (hw : s.waiting = none) (hp : s.ph = .spoint)
    (ht : finish (readSamplePoint s) = .next t) : RunInv t := by
  have hq : s.ph ∈ [Phase.chkpt, .spoint] := by simp [hp]
  rcases advance_cases h.memory ht with ⟨hn, _⟩ | ⟨_, rfl⟩ | ⟨hs, rfl⟩
  · cases hlv : s.mem.level (samplePointPos s).toNat with
    | high =>
      rw [readSamplePoint_high h.memory hn hlv] at ht
      cases ht
      exact h.advance hw hq hn (q := .asm) (by simp) _ true
    | low =>
      rw [readSamplePoint_low h.memory hn hlv] at ht
      cases ht
      exact h.advance hw hq hn (q := .asm) (by simp) _ false
  · exact h.advance_exhausted hw hq
  · exact ⟨h.memory, h.control, fun _ => h.cursorInv hw, h.config, h.ports,
      by simp [WaitInv, State.measuring, hp, (source_live_iff.mp hs).2]⟩

/-! ## Every operation, and every step -/

/-- The operation that the phase register selects keeps the invariant of a run. -/
theorem exec_runInv (h : RunInv s) (hw : s.waiting = none)
    (ht : exec (Phase.instr (glitchSelect s) s.ph) s = .next t) : RunInv t := by
  cases hp : s.ph <;> rw [hp] at ht
  case glitch =>
    cases hg : glitchSelect s <;> rw [hg] at ht
    · exact exec_gfHigh_runInv h hw hp ht
    · exact exec_gfLow_runInv h hw hp ht
    · exact exec_gfPass_runInv h hw hp ht
  case idle => exact exec_idle_runInv h hw hp ht
  case start => exact exec_start_runInv h hw hp ht
  case measure => exact exec_measure_runInv h hw hp ht
  case gapchk => exact exec_gapchk_runInv h hw hp ht
  case gapflush => exact exec_gapflush_runInv h hw hp ht
  case rstchk => exact exec_rstchk_runInv h hw hp ht
  case rstacc => exact exec_rstacc_runInv h hw hp ht
  case rstre => exact exec_rstre_runInv h hw hp ht
  case chkpt => exact readCheckpoint_runInv h hw hp ht
  case spoint => exact readSamplePoint_runInv h hw hp ht
  case asm => exact exec_asm_runInv h hw hp ht
  case emit => exact exec_emit_runInv h hw hp ht
  case progress => exact exec_progress_runInv h hw hp ht
  case cancelchk => exact exec_cancelchk_runInv h hw hp ht
  case halt => exact exec_halt_runInv h hw hp ht

/-- An operation in progress that goes on keeps the invariant of a run. -/
theorem resume_runInv (h : RunInv s) {p : WaitPoint} (hw : s.waiting = some p) (ht : resume p s = .next t) : RunInv t := by
  rcases h.waits.cases hw with ⟨hp, hph⟩ | ⟨rfl, hph⟩ | ⟨rfl, hph⟩
  · have ha := h.acquiring_resumed hph
    cases p with
    | risingEdge => exact measureFromLow_runInv ha hp ht
    | fallingEdge => exact measureFromRise_runInv ha hp ht
    | lowPulseEnd => exact measureLow_runInv ha hp ht
    | spikeEnd => exact skipLowSpike_runInv ha hp ht
    | mergedPulseEnd => exact mergeHighPulse_runInv ha hp ht
    | checkpoint | samplePoint | resetEnd => exact hp.elim
  · exact readCheckpoint_runInv (h.resumed (by simp [State.measuring, hw])) rfl hph ht
  · exact readSamplePoint_runInv (h.resumed (by simp [State.measuring, hw])) rfl hph ht

theorem resetInProgress_runInv (h : RunInv s) {p : WaitPoint} (hw : s.waiting = some p) :
    RunInv (resetInProgress p s) := by
  rcases resetInProgress_cases p s with ⟨t, ht, hr⟩ | ⟨_, hr⟩ <;> rw [hr]
  · have := resume_runInv h hw ht
    exact hardwareReset_runInv this.memory this.ports
  · exact hardwareReset_runInv h.memory h.ports

/-- What a step of a run does, before the outside's turn: an operation in progress goes on, or the operation that the phase
register selects is executed, or the machine is reset. -/
theorem RunInv.step_cases (h : RunInv s) (hs : step s = .next t) :
    (∃ p u, s.waiting = some p ∧ s.pins.rst = false ∧ resume p s = .next u ∧ hostTurn u = .next t) ∨
    (s.waiting = none ∧ s.pins.rst = false ∧
      ∃ u, exec (Phase.instr (glitchSelect s) s.ph) s = .next u ∧ hostTurn u = .next t) ∨
    (s.pins.rst = true ∧ ∃ u, hostTurn u = .next t ∧
      ((∃ p, s.waiting = some p ∧ u = resetInProgress p s) ∨ u = hardwareReset s)) := by
  rcases Machine.step_cases hs with hp | ⟨p, hw, hr, ht⟩ | ⟨_, hr, ht⟩ | ⟨hw, hr, i, u, hf, hu, ht⟩
  · exact .inl hp
  · exact .inr (.inr ⟨hr, _, ht, .inl ⟨p, hw, rfl⟩⟩)
  · exact .inr (.inr ⟨hr, _, ht, .inr rfl⟩)
  · rw [fetch_of_portsIdle h.ports] at hf
    cases hf
    exact .inr (.inl ⟨hw, hr, u, hu, ht⟩)

/-- Settles O10: the operation, resumed or selected by the phase register, the reset and the outside's turn each keep the
invariant. -/
theorem stepKeepsRunInvariant : Obligations.StepKeepsRunInvariant := by
  intro s t h hs
  rcases h.step_cases hs with ⟨p, u, hw, _, hu, ht⟩ | ⟨hw, _, u, hu, ht⟩ | ⟨_, u, ht, ⟨p, hw, rfl⟩ | rfl⟩
  · exact hostTurn_runInv (resume_runInv h hw hu) ht
  · exact hostTurn_runInv (exec_runInv h hw hu) ht
  · exact hostTurn_runInv (resetInProgress_runInv h hw) ht
  · exact hostTurn_runInv (hardwareReset_runInv h.memory h.ports) ht

end

end Sys2Proof.Machine
end

section
/-! Which records an operation sends (20_memory.md R48 to R52), and that every frame fits its kind (R49). -/

namespace Sys2Proof.Machine

/-- `t` is a state after `s` with further records in the sink, each as `P` says. -/
def Sends (s t : State) (P : Record → Prop) : Prop := ∃ rs, t.sink = s.sink ++ rs ∧ ∀ r ∈ rs, P r

/-- The records an operation begun in `s` may send. -/
def Sent (s : State) : Instr → Record → Prop
  | .gfHigh, r | .gfLow, r => r = .marker s.fall .invalid
  | .gapchk, r => r = .marker s.fall .start ∨ r = .marker s.fall .downArrow
  | .gapflush, r => r = .commit
  | .rstacc, r => r = .commit ∨ r = .frame s.fall s.rise .restart 0 s.rstWarn
  | .chkpt, r => ∃ a, r = .marker a .invalid
  | .spoint, r => ∃ a, r = .marker a .one ∨ r = .marker a .zero
  | .emit, r => r = .frame s.fieldStart s.rise (layerKind s.layer) s.acc false
  | .progress, r => r = .progress s.pos
  | .frame a b k v w, r => r = .frame a b k v w
  | .commit, r => r = .commit
  | .marker a k, r => r = .marker a k
  | .progressRec a, r => r = .progress a
  | _, _ => False

section
variable {s t u : State} {P : Record → Prop}

theorem sends_nothing (h : t.sink = s.sink) : Sends s t P := ⟨[], by simp [h], by simp⟩

theorem sends_one {r : Record} (h : t.sink = s.sink ++ [r]) (hr : P r) : Sends s t P := ⟨[r], h, by simpa using hr⟩

theorem Sends.trans (h : Sends s u P) (g : Sends u t P) : Sends s t P := by
  obtain ⟨rs, hu, hr⟩ := h
  obtain ⟨rs', ht, hr'⟩ := g
  refine ⟨rs ++ rs', by rw [ht, hu, List.append_assoc], fun r hm => ?_⟩
  exact (List.mem_append.mp hm).elim (hr r) (hr' r)

theorem Moved.sink (h : Moved s u) : u.sink = s.sink := by
  obtain ⟨_, _, _, _, _, _, rfl, _⟩ := h
  rfl

theorem Ends.sends {done : State → Prop} (h : Ends s done t) (hd : ∀ v, done v → Sends s v P) : Sends s t P := by
  rcases h with h | ⟨_, u, hu, rfl⟩ | ⟨_, p, u, hu, rfl⟩
  · exact hd t h
  · exact sends_nothing hu.sink
  · exact sends_nothing hu.sink

theorem Acquired.sends (h : Acquired s t) : Sends s t P := by
  obtain ⟨u, hu, rfl⟩ := h
  exact sends_nothing hu.sink

theorem LeftReset.sends (h : LeftReset s t) : Sends s t P := by
  obtain ⟨u, hu, rfl⟩ := h
  exact sends_nothing hu.sink

theorem Checked.sends (h : Checked s t) (u : State) : Sends s t (Sent u .chkpt) := by
  obtain ⟨v, hv, rfl | rfl⟩ := h
  · exact sends_one (congrArg (· ++ _) hv.sink) ⟨_, rfl⟩
  · exact sends_nothing hv.sink

theorem Sampled.sends (h : Sampled s t) (u : State) : Sends s t (Sent u .spoint) := by
  obtain ⟨v, hv, b, rfl⟩ := h
  refine sends_one (congrArg (· ++ _) hv.sink) ⟨v.curRsp.sample, ?_⟩
  cases b <;> simp

/-- Every operation only appends to the sink, and only records of its own. -/
theorem exec_sends {i : Instr} (h : exec i s = .next t) : Sends s t (Sent s i) := by
  cases i with
  | measure => exact (exec_measure_ends h).sends fun _ => Acquired.sends
  | gfHigh => exact (sends_one rfl rfl : Sends s _ (Sent s .gfHigh)).trans ((exec_gfHigh_ends h).sends fun _ => Acquired.sends)
  | gfLow => exact (sends_one rfl rfl : Sends s _ (Sent s .gfLow)).trans ((exec_gfLow_ends h).sends fun _ => Acquired.sends)
  | chkpt => exact (exec_chkpt_ends h).sends fun _ hv => Checked.sends hv s
  | spoint => exact (exec_spoint_ends h).sends fun _ hv => Sampled.sends hv s
  | rstacc =>
    have hs : Sends s (acceptReset s) (Sent s .rstacc) :=
      ⟨[.commit, .frame s.fall s.rise .restart 0 s.rstWarn], by simp, by simp [Sent]⟩
    exact hs.trans ((exec_rstacc_ends h).sends fun _ => LeftReset.sends)
  | query | advEdge | peekEdge | advBy =>
    rcases exec_command_cases rfl h with rfl | ⟨u, hu, rfl⟩
    · exact sends_nothing rfl
    · exact sends_nothing hu.sink
  | start => rcases exec_start_cases h with ⟨_, rfl⟩ | ⟨_, _, _, rfl⟩ <;> exact sends_nothing rfl
  | progress =>
    obtain ⟨_, rfl⟩ := exec_progress_cases h
    exact sends_one rfl rfl
  | gapchk =>
    rcases exec_gapchk_cases h with rfl | rfl
    · exact sends_one rfl (.inl rfl)
    · exact sends_one rfl (.inr rfl)
  | rstchk => rcases exec_rstchk_cases h with rfl | ⟨_, rfl⟩ <;> exact sends_nothing rfl
  | asm => rcases exec_asm_cases h with ⟨_, rfl⟩ | ⟨_, _, rfl⟩ <;> exact sends_nothing rfl
  | cancelchk => rcases exec_cancelchk_cases h with ⟨_, rfl⟩ | rfl <;> exact sends_nothing rfl
  | idle | gfPass | rstre | halt => cases h; exact sends_nothing rfl
  | gapflush | emit | frame | commit | marker | progressRec => cases h; exact sends_one rfl rfl

/-- What is left of an operation only appends to the sink, and only records of an operation that can wait there. -/
theorem resume_sends {p : WaitPoint} (h : resume p s = .next t) :
    Sends s t fun r => (p = .checkpoint ∧ Sent s .chkpt r) ∨ (p = .samplePoint ∧ Sent s .spoint r) := by
  refine (resume_ends h).sends fun v hv => ?_
  cases p with
  | checkpoint =>
    obtain ⟨rs, ht, hr⟩ := Checked.sends hv s
    exact ⟨rs, ht, fun r hm => .inl ⟨rfl, hr r hm⟩⟩
  | samplePoint =>
    obtain ⟨rs, ht, hr⟩ := Sampled.sends hv s
    exact ⟨rs, ht, fun r hm => .inr ⟨rfl, hr r hm⟩⟩
  | resetEnd => exact LeftReset.sends hv
  | _ => exact Acquired.sends hv

/-- Records of an operation are of the kinds it may send (20_memory.md R49 to R52). -/
theorem Sent.mem_emitters {i : Instr} {r : Record} (h : Sent s i r) (he : i = .emit → s.layer ≠ .unknown) :
    i ∈ r.emitters := by
  cases i with
  | idle | start | measure | gfPass | rstchk | rstre | asm | cancelchk | halt | query | advEdge | peekEdge | advBy =>
    exact h.elim
  | gapchk | rstacc => rcases h with rfl | rfl <;> simp [Record.emitters, markerEmitters, frameEmitters]
  | chkpt => obtain ⟨_, rfl⟩ := h; simp [Record.emitters, markerEmitters]
  | spoint => obtain ⟨_, rfl | rfl⟩ := h <;> simp [Record.emitters, markerEmitters]
  | emit =>
    obtain rfl : r = _ := h
    cases hl : s.layer with
    | unknown => exact absurd hl (he rfl)
    | _ => simp [Record.emitters, frameEmitters, layerKind]
  | gfHigh | gfLow | gapflush | progress | frame | commit | marker | progressRec =>
    obtain rfl : r = _ := h
    simp [Record.emitters, Record.instr, markerEmitters]

theorem Sends.of_append {rs : List Record} (h : Sends s t P) (ht : t.sink = s.sink ++ rs) : ∀ r ∈ rs, P r := by
  obtain ⟨rs', ht', hr⟩ := h
  rwa [List.append_cancel_left (ht.symm.trans ht')]

/-- Settles O21. -/
theorem recordsComeFromTheirEmitters : Obligations.RecordsComeFromTheirEmitters := by
  refine ⟨fun i s t rs he h ht r hr => ((exec_sends h).of_append ht r hr).mem_emitters he, fun p s t rs h ht r hr => ?_⟩
  rcases (resume_sends h).of_append ht r hr with ⟨rfl, hs⟩ | ⟨rfl, hs⟩
  · exact ⟨.chkpt, by simp [WaitPoint.operations], hs.mem_emitters (by simp)⟩
  · exact ⟨.spoint, by simp [WaitPoint.operations], hs.mem_emitters (by simp)⟩

/-! ## Every frame fits its kind -/

/-- The frame of a full field fits (44_frame_assembler.md R121): the accumulator has no bit at or above the width. -/
theorem fieldFrame_wellFormed (h : ControlInv s) (hp : s.ph = .emit) :
    (Record.frame s.fieldStart s.rise (layerKind s.layer) s.acc false).instr.wellFormed = true := by
  have hlu := h.layer_of_emit hp
  obtain ⟨_, _, h3, h4, _⟩ := h
  have hw := h3 hp
  cases hl : s.layer with
  | unknown => exact absurd hl hlu
  | data | command | crc =>
    rw [hl] at hw
    rw [← Option.some.inj hw] at h4
    exact Bool.and_eq_true_iff.mpr ⟨decide_eq_true h4, rfl⟩

/-- What the operation that the phase register selects sends is well formed. -/
theorem Sent.wellFormed (h : RunInv s) {r : Record} (hr : Sent s (Phase.instr (glitchSelect s) s.ph) r) :
    r.instr.wellFormed = true := by
  cases hp : s.ph <;> rw [hp] at hr
  case emit =>
    obtain rfl : r = _ := hr
    exact fieldFrame_wellFormed h.control hp
  case rstacc =>
    rcases hr with rfl | rfl
    · rfl
    · simp [Record.instr, Instr.wellFormed, FrameKind.valueFits, FrameKind.warningFits]
  case glitch =>
    cases hg : glitchSelect s <;> rw [hg] at hr
    · obtain rfl : r = _ := hr
      rfl
    · obtain rfl : r = _ := hr
      rfl
    · exact hr.elim
  case gapchk => rcases hr with rfl | rfl <;> rfl
  case chkpt => obtain ⟨_, rfl⟩ := hr; rfl
  case spoint => obtain ⟨_, rfl | rfl⟩ := hr <;> rfl
  case gapflush | progress =>
    obtain rfl : r = _ := hr
    rfl
  all_goals exact hr.elim

theorem SinkFits.of_sends (h : SinkFits s) (ht : Sends s t P) (hP : ∀ r, P r → r.instr.wellFormed = true) :
    SinkFits t := by
  obtain ⟨rs, ht, hr⟩ := ht
  intro r hm
  rw [ht, List.mem_append] at hm
  exact hm.elim (h r) fun hm => hP r (hr r hm)

theorem resume_sinkFits (h : SinkFits s) {p : WaitPoint} (ht : resume p s = .next t) : SinkFits t := by
  refine h.of_sends (resume_sends ht) fun r hr => ?_
  rcases hr with ⟨_, _, rfl⟩ | ⟨_, _, rfl | rfl⟩ <;> rfl

theorem hostTurn_sink (h : hostTurn s = .next t) : t.sink = s.sink := by
  rcases hostTurn_cases h with rfl | ⟨_, _, _, _, _, rfl, _⟩ <;> rfl

/-- Settles O11: the frames of EMIT and RSTACC fit, and no other operation of the core sends one. -/
theorem stepKeepsFramesFitting : Obligations.StepKeepsFramesFitting := by
  intro s t h hf hs
  rcases h.step_cases hs with ⟨p, u, hw, _, hu, ht⟩ | ⟨hw, _, u, hu, ht⟩ | ⟨_, u, ht, ⟨p, hw, rfl⟩ | rfl⟩ <;>
    rw [SinkFits, hostTurn_sink ht]
  · exact resume_sinkFits hf hu
  · exact hf.of_sends (exec_sends hu) fun r hr => hr.wellFormed h
  · rcases resetInProgress_cases p s with ⟨v, hv, hr⟩ | ⟨_, hr⟩ <;> rw [hr, hardwareReset_sink]
    · exact resume_sinkFits hf hv
    · exact hf
  · exact hf

end

end Sys2Proof.Machine
end

section
/-! The phase register (45_decode_loop.md R130): the transitions of its table, the ways into HALT, and that only hardware reset
enters IDLE or leaves HALT. -/

namespace Sys2Proof.Machine

section
variable {s t u : State}

/-- HALT is entered (60_exceptions.md R150): from START with a bad configuration, from CANCELCHK with `cancel` high, or from
an operation with a cursor command that finds no data on a stream that can end. -/
def EntersHalt (s u : State) : Prop :=
  u.ph = .halt ∧
    ((s.ph = .start ∧ u.haltReason = .configurationError ∧ configurationBad s = true) ∨
      (s.ph = .cancelchk ∧ u.haltReason = .cancelled ∧ s.pins.cancel = true) ∨
      (s.ph ∈ [Phase.measure, .glitch, .chkpt, .spoint, .rstacc] ∧ u.haltReason = .streamExhausted ∧
        s.source = .finite))

/-- What an operation of the core does to the phase: it goes on by the table, enters HALT, or waits on a live stream. -/
def PhaseMoves (s u : State) : Prop :=
  (u.waiting = s.waiting ∧ ((u.ph ∈ nextPhases s.ph ∧ (u.ph = .halt → s.ph = .halt)) ∨ EntersHalt s u)) ∨
    (s.source = .live ∧ u.waiting ≠ none ∧ u.ph = s.ph)

theorem phaseMoves_of_next (hw : u.waiting = s.waiting) (hp : u.ph ∈ nextPhases s.ph)
    (hh : u.ph = .halt → s.ph = .halt) : PhaseMoves s u := .inl ⟨hw, .inl ⟨hp, hh⟩⟩

theorem Moved.ph (h : Moved s u) : u.ph = s.ph := by
  obtain ⟨_, _, _, _, _, _, rfl, _⟩ := h
  rfl

theorem Moved.waiting (h : Moved s u) : u.waiting = s.waiting := by
  obtain ⟨_, _, _, _, _, _, rfl, _⟩ := h
  rfl

/-- An operation with cursor commands, in its own phase. -/
theorem Ends.phaseMoves {done : State → Prop} (h : Ends s done t)
    (hp : s.ph ∈ [Phase.measure, .glitch, .chkpt, .spoint, .rstacc])
    (hd : done t → t.waiting = s.waiting ∧ t.ph ∈ nextPhases s.ph ∧ t.ph ≠ .halt) : PhaseMoves s t := by
  rcases h with h | ⟨hf, u, hu, rfl⟩ | ⟨hl, p, u, hu, rfl⟩
  · obtain ⟨hw, hn, hh⟩ := hd h
    exact phaseMoves_of_next hw hn fun g => absurd g hh
  · exact .inl ⟨hu.waiting, .inr ⟨rfl, .inr (.inr ⟨hp, rfl, hf⟩)⟩⟩
  · exact .inr ⟨hl, by simp, hu.ph⟩

theorem Acquired.phase (h : Acquired s t) : t.waiting = s.waiting ∧ t.ph = .glitch := by
  obtain ⟨u, hu, rfl⟩ := h
  exact ⟨hu.waiting, rfl⟩

theorem Checked.phase (h : Checked s t) : t.waiting = s.waiting ∧ (t.ph = .progress ∨ t.ph = .spoint) := by
  obtain ⟨u, hu, rfl | rfl⟩ := h
  · exact ⟨hu.waiting, .inl rfl⟩
  · exact ⟨hu.waiting, .inr rfl⟩

theorem Sampled.phase (h : Sampled s t) : t.waiting = s.waiting ∧ t.ph = .asm := by
  obtain ⟨u, hu, b, rfl⟩ := h
  exact ⟨hu.waiting, rfl⟩

theorem LeftReset.phase (h : LeftReset s t) : t.waiting = s.waiting ∧ t.ph = .rstre := by
  obtain ⟨u, hu, rfl⟩ := h
  exact ⟨hu.waiting, rfl⟩

theorem Ends.phaseMoves_acquired (h : Ends s (Acquired s) t) (hp : s.ph = .measure ∨ s.ph = .glitch) :
    PhaseMoves s t := by
  refine h.phaseMoves (by simpa using Or.imp_right .inl hp) fun hd => ?_
  rcases hp with hp | hp <;> simp [hd.phase, hp, nextPhases]

theorem Ends.phaseMoves_checked (h : Ends s (Checked s) t) (hp : s.ph = .chkpt) : PhaseMoves s t :=
  h.phaseMoves (by simp [hp]) fun hd => by
    obtain ⟨hw, hq⟩ := hd.phase
    rcases hq with hq | hq <;> simp [hw, hq, hp, nextPhases]

theorem Ends.phaseMoves_sampled (h : Ends s (Sampled s) t) (hp : s.ph = .spoint) : PhaseMoves s t :=
  h.phaseMoves (by simp [hp]) fun hd => by simp [hd.phase, hp, nextPhases]

/-- The operation that the phase register selects, from any state. -/
theorem exec_phaseMoves (h : exec (Phase.instr (glitchSelect s) s.ph) s = .next t) : PhaseMoves s t := by
  cases hp : s.ph <;> rw [hp] at h
  case measure => exact (exec_measure_ends h).phaseMoves_acquired (.inl hp)
  case glitch =>
    cases hg : glitchSelect s <;> rw [hg] at h
    · exact (exec_gfHigh_ends h).phaseMoves_acquired (.inr hp)
    · exact (exec_gfLow_ends h).phaseMoves_acquired (.inr hp)
    · cases h
      refine phaseMoves_of_next rfl ?_ ?_ <;> by_cases hs : s.st = .unknown <;> simp [hs, hp, nextPhases]
  case chkpt => exact (exec_chkpt_ends h).phaseMoves_checked hp
  case spoint => exact (exec_spoint_ends h).phaseMoves_sampled hp
  case rstacc =>
    exact (exec_rstacc_ends h).phaseMoves (by simp [hp]) fun hd => by simp [hd.phase, hp, nextPhases]
  case idle =>
    cases h
    refine phaseMoves_of_next rfl ?_ ?_ <;> by_cases hs : s.pins.start = true <;> simp [hs, hp, nextPhases]
  case start =>
    rcases exec_start_cases h with ⟨hb, rfl⟩ | ⟨_, _, _, rfl⟩
    · exact .inl ⟨rfl, .inr ⟨rfl, .inl ⟨hp, rfl, hb⟩⟩⟩
    · exact phaseMoves_of_next rfl (by simp [hp, nextPhases]) (by simp)
  case cancelchk =>
    rcases exec_cancelchk_cases h with ⟨hc, rfl⟩ | rfl
    · exact .inl ⟨rfl, .inr ⟨rfl, .inr (.inl ⟨hp, rfl, hc⟩)⟩⟩
    · exact phaseMoves_of_next rfl (by simp [hp, nextPhases]) (by simp)
  case gapchk =>
    rcases exec_gapchk_cases h with rfl | rfl <;> exact phaseMoves_of_next rfl (by simp [hp, nextPhases]) (by simp)
  case rstchk =>
    rcases exec_rstchk_cases h with rfl | ⟨_, rfl⟩ <;> exact phaseMoves_of_next rfl (by simp [hp, nextPhases]) (by simp)
  case asm =>
    rcases exec_asm_cases h with ⟨_, rfl⟩ | ⟨w, _, rfl⟩
    · exact phaseMoves_of_next rfl (by simp [hp, nextPhases]) (by simp)
    · refine phaseMoves_of_next rfl ?_ ?_ <;> by_cases hf : s.bits + 1 = w <;> simp only [hf] <;> simp [hp, nextPhases]
  case progress =>
    obtain ⟨_, rfl⟩ := exec_progress_cases h
    exact phaseMoves_of_next rfl (by simp [hp, nextPhases]) (by simp)
  case gapflush | rstre | emit | halt =>
    cases h
    exact phaseMoves_of_next rfl (by simp [hp, nextPhases]) (by simp [hp])

/-- What is left of an operation, from the phase in which it waits. -/
theorem resume_phaseMoves (h : WaitInv s) {p : WaitPoint} (hw : s.waiting = some p) (ht : resume p s = .next t) :
    PhaseMoves { s with waiting := none } t := by
  have he := resume_ends ht
  rcases h.cases hw with ⟨hp, hph⟩ | ⟨rfl, hph⟩ | ⟨rfl, hph⟩
  · have hq : s.ph = .measure ∨ s.ph = .glitch := by simpa using hph
    cases p with
    | checkpoint | samplePoint | resetEnd => exact hp.elim
    | _ => exact Ends.phaseMoves_acquired he hq
  · exact Ends.phaseMoves_checked he hph
  · exact Ends.phaseMoves_sampled he hph

/-- The outside's turn changes no register of the core. -/
theorem hostTurn_core (h : hostTurn s = .next t) :
    t.ph = s.ph ∧ t.haltReason = s.haltReason ∧ t.waiting = s.waiting ∧ t.overdrive = s.overdrive ∧
      t.cfgForce = s.cfgForce := by
  rcases hostTurn_cases h with rfl | ⟨_, _, _, _, _, rfl, _⟩ <;> exact ⟨rfl, rfl, rfl, rfl, rfl⟩

/-- In a run RSTACC always completes: it neither halts nor waits. -/
theorem RunInv.rstacc_moves (h : RunInv s) (hw : s.waiting = none) (hp : s.ph = .rstacc)
    (ht : exec .rstacc s = .next t) : t.ph = .rstre ∧ t.waiting = none := by
  obtain ⟨hpf, _, he, _⟩ := (h.cursorInv hw).1 (by rw [hp]; rfl)
  rw [← hpf] at he
  rw [exec_rstacc_of_nextEdge h.memory he] at ht
  cases ht
  exact ⟨rfl, hw⟩

/-- A step of a run with `rst` low: an operation that moves the phase, and then the outside's turn, which does not. RSTACC
does not halt. -/
theorem RunInv.step_phaseMoves (h : RunInv s) (hr : s.pins.rst = false) (hs : step s = .next t) :
    ∃ u, PhaseMoves { s with waiting := none } u ∧ (s.ph = .rstacc → u.ph = .rstre) ∧ hostTurn u = .next t := by
  rcases h.step_cases hs with ⟨p, u, hw, _, hu, ht⟩ | ⟨hw, _, u, hu, ht⟩ | ⟨hr', _⟩
  · refine ⟨u, resume_phaseMoves h.waits hw hu, fun hp => ?_, ht⟩
    rcases h.waits.cases hw with ⟨_, hq⟩ | ⟨_, hq⟩ | ⟨_, hq⟩ <;> simp [hp] at hq
  · refine ⟨u, ?_, fun hp => ?_, ht⟩
    · rw [waiting_none hw]
      exact exec_phaseMoves hu
    · rw [hp] at hu
      exact (h.rstacc_moves hw hp hu).1
  · exact absurd (hr'.symm.trans hr) (by decide)

/-- The phases HALT can be entered from have it in their row of the table, RSTACC apart. -/
theorem EntersHalt.mem_nextPhases (h : EntersHalt s u) (hn : s.ph ≠ .rstacc) : u.ph ∈ nextPhases s.ph := by
  obtain ⟨hu, ⟨hp, _⟩ | ⟨hp, _⟩ | ⟨hp, _⟩⟩ := h <;> rw [hu]
  · simp [hp, nextPhases]
  · simp [hp, nextPhases]
  · revert hp hn
    cases s.ph <;> decide

/-- Settles O14. -/
theorem phaseTransitionsAreTheTables : Obligations.PhaseTransitionsAreTheTables := by
  intro s t h hr hs
  obtain ⟨u, hm, hacc, ht⟩ := h.step_phaseMoves hr hs
  obtain ⟨hph, _, hw, _⟩ := hostTurn_core ht
  rw [hph, hw]
  rcases hm with ⟨_, ⟨hn, _⟩ | he⟩ | hwait
  · exact .inl hn
  · have hn : s.ph ≠ .rstacc := fun hp => absurd (he.1.symm.trans (hacc hp)) (by decide)
    exact .inl (EntersHalt.mem_nextPhases he hn)
  · exact .inr hwait

/-- Settles O16. -/
theorem haltHasThreeWaysIn : Obligations.HaltHasThreeWaysIn := by
  intro s t h hr hs hn hh
  obtain ⟨u, hm, hacc, ht⟩ := h.step_phaseMoves hr hs
  obtain ⟨hph, hreason, _⟩ := hostTurn_core ht
  rw [hph] at hh
  rw [hreason]
  rcases hm with ⟨_, ⟨_, hp⟩ | ⟨_, he⟩⟩ | ⟨_, _, hp⟩
  · exact absurd (hp hh) hn
  · refine he.imp_right (.imp_right (.imp_left fun hp => ?_))
    have hr' : s.ph ≠ .rstacc := fun hq => absurd (hh.symm.trans (hacc hq)) (by decide)
    simpa [hr'] using hp
  · exact absurd (hp.symm.trans hh) hn

/-! ## From any state -/

/-- A fetched operation is the one that the phase register selects, or stands at a port. -/
theorem fetch_cases {i : Instr} (h : fetch s = .ok i) :
    i = Phase.instr (glitchSelect s) s.ph ∨ i.phase? = none := by
  cases hp : i.phase? with
  | none => exact .inr rfl
  | some p =>
    have he := encodeOfDecodeIsTheWord _ _ _ h
    rw [encode_of_phase? hp] at he
    have hi : PortsIdle s := by
      unfold fetchWord at he
      cases hc : s.curCmd <;> cases hw : s.snkWord <;> simp_all [PortsIdle]
    rw [fetch_of_portsIdle hi] at h
    exact .inl (Except.ok.inj h).symm

/-- A command or a record at its port leaves the phase. -/
theorem exec_port_ph {i : Instr} (hi : i.phase? = none) (h : exec i s = .next t) : t.ph = s.ph := by
  cases i <;> simp only [Instr.phase?, reduceCtorEq] at hi
  case query | advEdge | peekEdge | advBy =>
    rcases exec_command_cases rfl h with rfl | ⟨u, hu, rfl⟩
    · rfl
    · exact hu.ph
  case frame | commit | marker | progressRec =>
    cases h
    rfl

/-- No phase leads to IDLE but IDLE, and HALT only to HALT. -/
theorem PhaseMoves.idle_halt (h : PhaseMoves s u) :
    (u.ph = .idle → s.ph = .idle) ∧ (s.ph = .halt → u.ph = .halt) := by
  rcases h with ⟨_, ⟨hn, _⟩ | ⟨hu, _⟩⟩ | ⟨_, _, hp⟩
  · revert hn
    cases s.ph <;> cases u.ph <;> decide
  · exact ⟨fun hi => absurd (hu.symm.trans hi) (by decide), fun _ => hu⟩
  · exact ⟨fun hi => hp ▸ hi, fun hh => hp ▸ hh⟩

/-- Settles O15. -/
theorem onlyRstEntersIdleOrLeavesHalt : Obligations.OnlyRstEntersIdleOrLeavesHalt := by
  intro s t hwait hs hr
  rcases step_cases hs with ⟨p, u, hw, _, hu, ht⟩ | ⟨_, _, hr', _⟩ | ⟨_, hr', _⟩ | ⟨_, _, i, u, hf, hu, ht⟩
  · rw [(hostTurn_core ht).1]
    exact (resume_phaseMoves hwait hw hu).idle_halt
  · exact absurd (hr'.symm.trans hr) (by decide)
  · exact absurd (hr'.symm.trans hr) (by decide)
  · rw [(hostTurn_core ht).1]
    rcases fetch_cases hf with rfl | hi
    · exact (exec_phaseMoves hu).idle_halt
    · rw [exec_port_ph hi hu]
      exact ⟨id, id⟩

end

end Sys2Proof.Machine
end

section
/-! No run stops (60_exceptions.md R155), and every run on a stream that can end ends (45_decode_loop.md, Termination): the
samples ahead of the cursor and the place in the loop give a bound that every step lowers. -/

namespace Sys2Proof.Machine

section
variable {s t u : State}

/-! ## Every state of a run has a next step -/

/-- The operation answers a next state, or is the refused advance past index 2^64 on a live stream. -/
def Answers (s : State) (o : Out) : Prop := (∃ t, o = .next t) ∨ (o = .refused .indexBeyond64 ∧ Beyond s .indexBeyond64)

theorem Goes.answers {done : State → Prop} {r : Res} (h : Goes s done (Beyond s) r) (hm : MemoryInv s) :
    Answers s (finish r) := by
  rcases h.next_or_refused hm with ht | ⟨f, hf, hr⟩
  · exact .inl ht
  · obtain rfl := hf.1
    exact .inr ⟨hr, hf⟩

theorem exec_start_answers (hm : MemoryInv s) (ha : admissible s.params = true) : Answers s (exec .start s) := by
  change Answers s (execStart s)
  have hr := riseFromCursor_eq (s := startRegisters s) hm.2
  simp only [execStart, ha, hr, Bool.not_true, Bool.false_eq_true, if_false]
  split <;> exact .inl ⟨_, rfl⟩

theorem exec_progress_answers (hm : MemoryInv s) : Answers s (exec .progress s) := by
  change Answers s (execProgress s)
  rw [execProgress, query_eq hm.2]
  exact .inl ⟨_, rfl⟩

/-- With the cursor on a sample and an admissible record the operation that the phase register selects answers. -/
theorem exec_answers (hm : MemoryInv s) (ha : admissible s.params = true) (sel : GlitchSel) (p : Phase) :
    Answers s (exec (Phase.instr sel p) s) := by
  cases p
  case glitch =>
    cases sel
    · exact (measureFromLow_goes (s := raise .glitch s) (moved_self _)).answers hm
    · exact (skipLowSpike_goes (s := raise .glitch s) (moved_self _)).answers hm
    · exact .inl ⟨_, rfl⟩
  case measure =>
    obtain ⟨r, hr, hg⟩ := exec_measure_goes s (Beyond s)
    exact hr ▸ hg.answers hm
  case chkpt => exact (readCheckpoint_goes s).answers hm
  case spoint => exact (readSamplePoint_goes s).answers hm
  case rstacc => exact (leaveReset_goes (acceptReset s)).answers hm
  case start => exact exec_start_answers hm ha
  case progress => exact exec_progress_answers hm
  case gapchk =>
    change Answers s (execGapchk s)
    unfold execGapchk
    split <;> exact .inl ⟨_, rfl⟩
  case rstchk =>
    change Answers s (execRstchk s)
    unfold execRstchk
    split <;> exact .inl ⟨_, rfl⟩
  case asm =>
    change Answers s (execAsm s)
    unfold execAsm
    split <;> exact .inl ⟨_, rfl⟩
  case cancelchk =>
    change Answers s (execCancelchk s)
    unfold execCancelchk
    split <;> exact .inl ⟨_, rfl⟩
  all_goals exact .inl ⟨_, rfl⟩

/-- With an empty script the outside's turn adds nothing. -/
theorem Answers.thenNext {o : Out} (h : Answers s o) (hs : ∀ t, o = .next t → t.script = []) :
    Answers s (thenNext o hostTurn) := by
  rcases h with ⟨t, rfl⟩ | ⟨rfl, hb⟩
  · exact .inl ⟨t, hostTurn_empty (hs t rfl)⟩
  · exact .inr ⟨rfl, hb⟩

theorem step_answers (h : RunInv s) (ha : admissible s.params = true) (hs : s.script = []) : Answers s (step s) := by
  cases hw : s.waiting with
  | some p =>
    cases hr : s.pins.rst with
    | true =>
      rw [step_of_waiting_rst hw hr, hostTurn_empty ((resetInProgress_sameOutside p s).script.trans hs)]
      exact .inl ⟨_, rfl⟩
    | false =>
      rw [step_of_waiting hw hr]
      have hg : Answers s (resume p s) := (rest_goes p { s with waiting := none }).answers h.memory
      exact hg.thenNext fun t ht => (resume_onward ht).outside.script.trans hs
  | none =>
    cases hr : s.pins.rst with
    | true =>
      rw [step_of_rst hw hr, hostTurn_empty (s := hardwareReset s) hs]
      exact .inl ⟨_, rfl⟩
    | false =>
      rw [step_of_fetch hw hr (fetch_of_portsIdle h.ports)]
      exact (exec_answers h.memory ha _ _).thenNext fun t ht => (exec_onward ht).outside.script.trans hs

/-- Settles O12. -/
theorem malformedInputNeverStopsARun : Obligations.MalformedInputNeverStopsARun := by
  intro s h ha hs
  rcases step_answers h ha hs with ht | ⟨hr, _, hl, hb⟩
  · exact ⟨fun _ => ht, fun _ => .inl ht⟩
  · exact ⟨fun hf => absurd (hf.symm.trans hl) (by decide), fun _ => .inr ⟨hr, hb⟩⟩

/-! ## A bound on the steps to HALT -/

/-- How many steps the loop takes at most from a phase on until the cursor moves to a further edge. -/
def phaseRank : Phase → Nat
  | .glitch => 10
  | .gapchk => 9
  | .gapflush => 8
  | .rstchk => 7
  | .chkpt => 6
  | .spoint => 5
  | .asm => 4
  | .rstacc => 4
  | .emit => 3
  | .rstre => 3
  | .progress => 2
  | .cancelchk => 1
  | .start => 1
  | .measure => 0
  | .idle => 0
  | .halt => 0

/-- A measurement that waits is before all of these. -/
def rank (s : State) : Nat := if s.measuring then 11 else phaseRank s.ph

/-- The steps left of a run on a stream that can end. -/
def stepsLeft (s : State) : Nat := 16 * (s.mem.stop - s.pos.toNat) + rank s

theorem phaseRank_lt {p q : Phase} (h : q ∈ nextPhases p) (hp : p ∉ [Phase.measure, .glitch, .idle]) (hq : q ≠ .halt) :
    phaseRank q < phaseRank p := by
  revert h hp hq
  cases p <;> cases q <;> decide

theorem phaseRank_le (p : Phase) : phaseRank p ≤ 10 := by cases p <;> decide

/-- An operation that begins with AdvEdge moves the cursor, or finds no data. -/
theorem advEdge_advances (hm : MemoryInv s) (hf : s.source = .finite) {p : WaitPoint} {k : State → Res}
    (hk : ∀ v, MemoryInv v → finish (k v) = .next t → v.pos ≤ t.pos)
    (ht : finish (((advEdge s).waitingAt p).andThen k) = .next t) : t.ph = .halt ∨ s.pos < t.pos := by
  rcases advEdge_cases hm with ⟨e, he, ha⟩ | ⟨_, ha⟩
  · rw [ha] at ht
    have hle := BitVec.le_def.mp (hk _ (moveTo_memoryInv hm (Memory.holds_of_nextEdge hm.2 he)) ht)
    exact .inr (BitVec.lt_def.mpr (Nat.lt_of_lt_of_le he.1 hle))
  · rw [ha, endOfData_finite hf] at ht
    cases ht
    exact .inl rfl

/-- What is left to do of a measurement does not move the cursor back. -/
theorem Goes.pos_le {refuses : Refusal → Prop} {r : Res} (h : Goes s (Acquired s) refuses r)
    (ht : finish r = .next t) (hm : MemoryInv s) : s.pos ≤ t.pos :=
  (((h.ends ht).onward fun _ => Acquired.onward).cursor hm).2

theorem measureFromRise_advances (hm : MemoryInv s) (hf : s.source = .finite)
    (ht : finish (measureFromRise s) = .next t) : t.ph = .halt ∨ s.pos < t.pos :=
  advEdge_advances hm hf (fun v hv hk => Goes.pos_le (refuses := fun _ => True)
    ((query_goes (moved_self v)).andThen fun w hw =>
      measureLow_goes (hw.write w.rise w.curRsp.sample (w.curRsp.sample - w.rise) w.lowW)) hk hv) ht

theorem measureFromLow_advances (hm : MemoryInv s) (hf : s.source = .finite)
    (ht : finish (measureFromLow s) = .next t) : t.ph = .halt ∨ s.pos < t.pos :=
  advEdge_advances hm hf (fun v hv hk => Goes.pos_le (refuses := fun _ => True)
    ((riseFromCursor_goes (moved_self v)).andThen fun _ hw => measureFromRise_goes hw) hk hv) ht

theorem skipLowSpike_advances (hm : MemoryInv s) (hf : s.source = .finite)
    (ht : finish (skipLowSpike s) = .next t) : t.ph = .halt ∨ s.pos < t.pos :=
  advEdge_advances hm hf (fun v hv hk => Goes.pos_le (refuses := fun _ => True)
    (mergeHighPulse_goes (moved_self v)) hk hv) ht

theorem exec_measure_advances (hm : MemoryInv s) (hf : s.source = .finite) (ht : exec .measure s = .next t) :
    t.ph = .halt ∨ s.pos < t.pos := by
  change execMeasure s = _ at ht
  rw [execMeasure_eq hm] at ht
  cases hl : s.level <;> rw [hl] at ht
  · exact measureFromLow_advances (s := answer s.pos false s) hm hf ht
  · exact measureFromRise_advances (s := answer s.pos false s) hm hf ht

/-- A step in the loop goes on in it, or moves the cursor forward. -/
def Advances (s t : State) : Prop := phaseRank t.ph < rank s ∨ s.pos < t.pos

theorem exec_advances (hm : MemoryInv s) (hf : s.source = .finite) (hw : s.waiting = none)
    (hi : s.ph ≠ .idle) (ht : exec (Phase.instr (glitchSelect s) s.ph) s = .next t) : t.ph = .halt ∨ Advances s t := by
  have hrank : rank s = phaseRank s.ph := by simp [rank, measuring_of_none hw]
  by_cases hh : t.ph = .halt
  · exact .inl hh
  refine .inr ?_
  by_cases hp : s.ph ∈ [Phase.measure, .glitch]
  · simp only [List.mem_cons, List.not_mem_nil, or_false] at hp
    rcases hp with hp | hp <;> rw [hp] at ht
    · exact .inr ((exec_measure_advances hm hf ht).resolve_left hh)
    · cases hg : glitchSelect s <;> rw [hg] at ht
      · exact .inr ((measureFromLow_advances (s := raise .glitch s) hm hf ht).resolve_left hh)
      · exact .inr ((skipLowSpike_advances (s := raise .glitch s) hm hf ht).resolve_left hh)
      · refine .inl ?_
        cases ht
        rw [hrank, hp]
        by_cases hs : s.st = .unknown <;> simp [hs, phaseRank]
  · rcases exec_phaseMoves ht with ⟨_, ⟨hn, _⟩ | he⟩ | ⟨hl, _⟩
    · simp only [List.mem_cons, List.not_mem_nil, or_false, not_or] at hp
      exact .inl (hrank ▸ phaseRank_lt hn (by simp [hp, hi]) hh)
    · exact absurd he.1 hh
    · exact absurd (hl.symm.trans hf) (by decide)

theorem resume_advances (h : RunInv s) (hf : s.source = .finite) {p : WaitPoint} (hw : s.waiting = some p)
    (ht : resume p s = .next t) : t.ph = .halt ∨ Advances s t := by
  by_cases hh : t.ph = .halt
  · exact .inl hh
  refine .inr (.inl ?_)
  rcases h.waits.cases hw with ⟨hp, _⟩ | hp | hp
  · have := phaseRank_le t.ph
    have hm : s.measuring = true := measuring_of_standsAt hp hw
    simp only [rank, hm, if_true]
    omega
  all_goals
    obtain ⟨rfl, hp⟩ := hp
    have hm : s.measuring = false := by simp [State.measuring, hw]
    rcases resume_phaseMoves h.waits hw ht with ⟨_, ⟨hn, _⟩ | he⟩ | ⟨hl, _⟩
    · simp only [rank, hm, Bool.false_eq_true, if_false]
      exact phaseRank_lt hn (by simp [hp]) hh
    · exact absurd he.1 hh
    · exact absurd (hl.symm.trans hf) (by decide)

/-- On a stream that can end no operation waits. -/
theorem PhaseMoves.waiting_none (h : PhaseMoves { s with waiting := none } u) (hf : s.source = .finite) :
    u.waiting = none := by
  rcases h with ⟨hw, _⟩ | ⟨hl, _⟩
  · exact hw
  · exact absurd (hl.symm.trans hf) (by decide)

/-- Between steps of a run on a stream that can end, started and not reset, with nothing more from the outside. -/
structure Running (s : State) : Prop where
  inv : RunInv s
  admissible : admissible s.params = true
  source : s.source = .finite
  script : s.script = []
  rst : s.pins.rst = false
  started : s.ph ≠ .idle

/-- The outside does nothing more: a step of such a run is the operation itself. -/
theorem Running.step_cases (h : Running s) (ht : step s = .next t) :
    (∃ p, s.waiting = some p ∧ resume p s = .next t) ∨
      (s.waiting = none ∧ exec (Phase.instr (glitchSelect s) s.ph) s = .next t) := by
  rcases h.inv.step_cases ht with ⟨p, u, hw, _, hu, hk⟩ | ⟨hw, _, u, hu, hk⟩ | ⟨hr, _⟩
  · rw [hostTurn_empty ((resume_onward hu).outside.script.trans h.script)] at hk
    cases hk
    exact .inl ⟨p, hw, hu⟩
  · rw [hostTurn_empty ((exec_onward hu).outside.script.trans h.script)] at hk
    cases hk
    exact .inr ⟨hw, hu⟩
  · exact absurd (hr.symm.trans h.rst) (by decide)

theorem Running.onward (h : Running s) (ht : step s = .next t) : Onward s t := by
  rcases h.step_cases ht with ⟨p, _, hu⟩ | ⟨_, hu⟩
  · exact resume_onward hu
  · exact exec_onward hu

theorem Running.keeps (h : Running s) (ht : step s = .next t) : Running t where
  inv := stepKeepsRunInvariant s t h.inv ht
  admissible := (h.onward ht).outside.params ▸ h.admissible
  source := by
    have ho := (h.onward ht).outside
    rw [← h.source]
    simp only [State.source, ho.ended, ho.params]
  script := (h.onward ht).outside.script.trans h.script
  rst := (h.onward ht).outside.pins ▸ h.rst
  started hi := h.started ((onlyRstEntersIdleOrLeavesHalt s t h.inv.waits ht h.rst).1 hi)

/-- No operation waits after a step of such a run. -/
theorem Running.waiting_none (h : Running s) (ht : step s = .next t) : t.waiting = none := by
  obtain ⟨u, hm, _, hu⟩ := h.inv.step_phaseMoves h.rst ht
  exact (hostTurn_core hu).2.2.1.trans (hm.waiting_none h.source)

theorem Running.advances (h : Running s) (ht : step s = .next t) : t.ph = .halt ∨ Advances s t := by
  rcases h.step_cases ht with ⟨p, hw, hu⟩ | ⟨hw, hu⟩
  · exact resume_advances h.inv h.source hw hu
  · exact exec_advances h.inv.memory h.source hw h.started hu

/-- A step of such a run enters HALT or leaves fewer steps to go. -/
theorem Running.stepsLeft_lt (h : Running s) (ht : step s = .next t) : t.ph = .halt ∨ stepsLeft t < stepsLeft s := by
  refine (h.advances ht).imp_right fun hadv => ?_
  have hon := h.onward ht
  obtain ⟨hm, hle⟩ := hon.cursor h.inv.memory
  have hb := hm.bounds
  have hrank : rank t = phaseRank t.ph := by simp [rank, measuring_of_none (h.waiting_none ht)]
  have hr10 := phaseRank_le t.ph
  have hle' := BitVec.le_def.mp hle
  rw [hon.outside.mem] at hb
  simp only [stepsLeft, hon.outside.mem, hrank]
  rcases hadv with hlt | hlt
  · omega
  · have := BitVec.lt_def.mp hlt
    omega

theorem Running.answers (h : Running s) : ∃ t, step s = .next t := by
  rcases step_answers h.inv h.admissible h.script with ht | ⟨_, _, hl, _⟩
  · exact ht
  · exact absurd (hl.symm.trans h.source) (by decide)

theorem run_succ (n : Nat) (h : step s = .next t) :
    Host.Core.run Sys2Proof.core (n + 1) s = Host.Core.run Sys2Proof.core n t := by
  have hc : Sys2Proof.core.step s = .next t := h
  simp only [Host.Core.run, hc]

/-- HALT is reached, by induction on the steps left. -/
theorem Running.reaches_halt (h : Running s) :
    ∃ n t, n ≤ stepsLeft s ∧ Host.Core.run Sys2Proof.core n s = .next t ∧ t.ph = .halt := by
  induction hk : stepsLeft s using Nat.strong_induction_on generalizing s with
  | _ k ih =>
    obtain ⟨t, hs⟩ := h.answers
    rcases h.stepsLeft_lt hs with hhalt | hlt
    · have := h.inv.memory.bounds
      exact ⟨1, t, by unfold stepsLeft at hk; omega, run_succ 0 hs, hhalt⟩
    · obtain ⟨n, v, hn, hv, hh⟩ := ih _ (hk ▸ hlt) (h.keeps hs) rfl
      exact ⟨n + 1, v, by omega, (run_succ n hs).trans hv, hh⟩

theorem rank_le (s : State) : rank s ≤ 11 := by
  have := phaseRank_le s.ph
  unfold rank
  split <;> omega

/-- The turn in which the host does nothing but end the stream. -/
theorem hostTurn_ends (hs : s.script = [{ pins := none, capture := none, deliver := none, ends := true }]) :
    hostTurn s = .next { s with script := [], ended := true } := by
  simp only [hostTurn, hs]
  rfl

/-- Settles O13. -/
theorem finiteRunReachesHalt : Obligations.FiniteRunReachesHalt := by
  refine ⟨fun s h ha hf hs hr hi => ?_, fun s t hs ht => ?_⟩
  · obtain ⟨n, t, hn, hrun, hh⟩ := Running.reaches_halt ⟨h, ha, hf, hs, hr, hi⟩
    have := rank_le s
    exact ⟨n, t, by unfold stepsLeft at hn; omega, hrun, hh⟩
  · obtain ⟨u, hu, ht⟩ := step_onward ht
    rw [hostTurn_ends (hu.outside.script.trans hs)] at ht
    cases ht
    exact ⟨source_of_ended rfl, rfl⟩

end

end Sys2Proof.Machine
end

section
/-! Noninterference: nothing flows from the sink back to the core (20_memory.md R48, R57), and of the pins only what an
operation is named for flows in (10_state.md R26). One proof serves both: every operation commutes with putting records before
those in the sink and driving the pins otherwise. -/

namespace Sys2Proof.Machine

/-- The state with the records `old` before those in the sink, and the pins driven to what `g` makes of them. -/
def State.overlay (g : Pins → Pins) (old : List Record) (s : State) : State :=
  { s with pins := g s.pins, sink := old ++ s.sink }

/-- Change the state that a result carries. -/
def Res.map (f : State → State) : Res → Res
  | .ok s => .ok (f s)
  | .eos s => .eos (f s)
  | .waits s => .waits (f s)
  | .fault r => .fault r
  | .refused r => .refused r

/-- Change the next state. -/
def mapNext (f : State → State) (o : Out) : Out := thenNext o fun s => .next (f s)

section
variable {s t : State} {r : Res} {k : State → Res} {g : Pins → Pins} {old : List Record}

theorem emit_overlay (x : Record) (s : State) : emit x (s.overlay g old) = (emit x s).overlay g old := by
  simp [emit, State.overlay]

/-- What follows commutes if it does so wherever it begins. -/
theorem andThen_overlay (hk : ∀ u, k (u.overlay g old) = (k u).map (State.overlay g old)) :
    (r.map (State.overlay g old)).andThen k = (r.andThen k).map (State.overlay g old) := by
  cases r with
  | ok u => exact hk u
  | _ => rfl

theorem waitingAt_overlay (p : WaitPoint) :
    (r.map (State.overlay g old)).waitingAt p = (r.waitingAt p).map (State.overlay g old) := by
  cases r <;> rfl

theorem endOfData_overlay (s : State) : endOfData (s.overlay g old) = (endOfData s).map (State.overlay g old) := by
  have hs : (s.overlay g old).source = s.source := rfl
  unfold endOfData
  rw [hs]
  cases s.source <;> rfl

theorem onSample_overlay {r' : Res} (h : r' = r.map (State.overlay g old)) :
    onSample (s.overlay g old) r' = (onSample s r).map (State.overlay g old) := by
  subst h
  unfold onSample
  have hm : (s.overlay g old).mem.holds (s.overlay g old).pos.toNat = s.mem.holds s.pos.toNat := rfl
  rw [hm]
  split <;> rfl

theorem query_overlay (s : State) : query (s.overlay g old) = (query s).map (State.overlay g old) :=
  onSample_overlay rfl

theorem advEdge_overlay (s : State) : advEdge (s.overlay g old) = (advEdge s).map (State.overlay g old) := by
  refine onSample_overlay ?_
  have hn : (s.overlay g old).mem.next? (s.overlay g old).pos.toNat = s.mem.next? s.pos.toNat := rfl
  rw [hn]
  cases s.mem.next? s.pos.toNat with
  | some e => rfl
  | none => exact endOfData_overlay s

theorem peekEdge_overlay (s : State) : peekEdge (s.overlay g old) = (peekEdge s).map (State.overlay g old) := by
  refine onSample_overlay ?_
  have hn : (s.overlay g old).mem.next? (s.overlay g old).pos.toNat = s.mem.next? s.pos.toNat := rfl
  rw [hn]
  cases s.mem.next? s.pos.toNat with
  | some e => rfl
  | none => exact endOfData_overlay s

theorem advBy_overlay (n : BitVec 32) (s : State) :
    advBy n (s.overlay g old) = (advBy n s).map (State.overlay g old) := by
  refine onSample_overlay ?_
  have hp : (s.overlay g old).pos = s.pos := rfl
  have hm : (s.overlay g old).mem = s.mem := rfl
  have hs : (s.overlay g old).source = s.source := rfl
  rw [hp, hm, hs, endOfData_overlay]
  split
  · rfl
  · split <;> rfl

/-- A cursor command of the core, and what the operation does once it is answered. -/
theorem command_overlay {c : State → Res} (p : WaitPoint) (hc : c (s.overlay g old) = (c s).map (State.overlay g old))
    (hk : ∀ u, k (u.overlay g old) = (k u).map (State.overlay g old)) :
    ((c (s.overlay g old)).waitingAt p).andThen k = (((c s).waitingAt p).andThen k).map (State.overlay g old) := by
  rw [hc, waitingAt_overlay, andThen_overlay hk]

theorem measureLow_overlay (s : State) : measureLow (s.overlay g old) = (measureLow s).map (State.overlay g old) :=
  command_overlay _ (peekEdge_overlay s) fun _ => rfl

theorem query_then_overlay (hk : ∀ u, k (u.overlay g old) = (k u).map (State.overlay g old)) (s : State) :
    (query (s.overlay g old)).andThen k = ((query s).andThen k).map (State.overlay g old) := by
  rw [query_overlay, andThen_overlay hk]

theorem measureFromRise_overlay (s : State) :
    measureFromRise (s.overlay g old) = (measureFromRise s).map (State.overlay g old) :=
  command_overlay _ (advEdge_overlay s) <| query_then_overlay fun u =>
    measureLow_overlay { u with fall := u.curRsp.sample, highW := u.curRsp.sample - u.rise }

theorem riseFromCursor_overlay (s : State) :
    riseFromCursor (s.overlay g old) = (riseFromCursor s).map (State.overlay g old) :=
  query_then_overlay (fun _ => rfl) s

theorem measureFromLow_overlay (s : State) :
    measureFromLow (s.overlay g old) = (measureFromLow s).map (State.overlay g old) :=
  command_overlay _ (advEdge_overlay s) fun u => by rw [riseFromCursor_overlay, andThen_overlay measureFromRise_overlay]

theorem mergeHighPulse_overlay (s : State) :
    mergeHighPulse (s.overlay g old) = (mergeHighPulse s).map (State.overlay g old) :=
  command_overlay _ (advEdge_overlay s) <| query_then_overlay fun u =>
    measureLow_overlay { u with fall := u.curRsp.sample, highW := u.highW + (u.curRsp.sample - u.fall) }

theorem skipLowSpike_overlay (s : State) :
    skipLowSpike (s.overlay g old) = (skipLowSpike s).map (State.overlay g old) :=
  command_overlay _ (advEdge_overlay s) mergeHighPulse_overlay

theorem readCheckpoint_overlay (s : State) :
    readCheckpoint (s.overlay g old) = (readCheckpoint s).map (State.overlay g old) := by
  refine command_overlay (c := advBy (checkpointAdvance s)) _ (advBy_overlay _ s) fun u => ?_
  have hl : (u.overlay g old).curRsp.level = u.curRsp.level := rfl
  rw [hl]
  cases u.curRsp.level with
  | low => rfl
  | high => simp [raise, emit, State.overlay, Res.map]

theorem readSamplePoint_overlay (s : State) :
    readSamplePoint (s.overlay g old) = (readSamplePoint s).map (State.overlay g old) := by
  refine command_overlay (c := advBy (samplePointAdvance s)) _ (advBy_overlay _ s) fun u => ?_
  have hl : (u.overlay g old).curRsp.level = u.curRsp.level := rfl
  rw [hl]
  cases u.curRsp.level <;> simp [emit, State.overlay, Res.map]

theorem leaveReset_overlay (s : State) : leaveReset (s.overlay g old) = (leaveReset s).map (State.overlay g old) :=
  command_overlay _ (advEdge_overlay s) fun _ => rfl

theorem rest_overlay (p : WaitPoint) (s : State) : rest p (s.overlay g old) = (rest p s).map (State.overlay g old) := by
  cases p with
  | risingEdge => exact measureFromLow_overlay s
  | fallingEdge => exact measureFromRise_overlay s
  | lowPulseEnd => exact measureLow_overlay s
  | spikeEnd => exact skipLowSpike_overlay s
  | mergedPulseEnd => exact mergeHighPulse_overlay s
  | checkpoint => exact readCheckpoint_overlay s
  | samplePoint => exact readSamplePoint_overlay s
  | resetEnd => exact leaveReset_overlay s

/-! ## The operations -/

theorem finish_overlay : finish (r.map (State.overlay g old)) = mapNext (State.overlay g old) (finish r) := by
  cases r <;> rfl

theorem finishCommand_overlay :
    finishCommand (s.overlay g old) (r.map (State.overlay g old)) =
      mapNext (State.overlay g old) (finishCommand s r) := by
  cases r <;> rfl

theorem resume_overlay (p : WaitPoint) (s : State) :
    resume p (s.overlay g old) = mapNext (State.overlay g old) (resume p s) :=
  (congrArg finish (rest_overlay p { s with waiting := none })).trans finish_overlay

/-- What the operation is named for is on the pins as before (10_state.md R26). -/
def PinsAgree (i : Instr) (p q : Pins) : Prop :=
  (i = .start → q.sampleRateHz = p.sampleRateHz ∧ q.forceOverdrive = p.forceOverdrive ∧ q.channel = p.channel ∧
    q.channelValid = p.channelValid) ∧
  (i = .idle → q.start = p.start) ∧ (i = .cancelchk → q.cancel = p.cancel)

theorem execMeasure_overlay (s : State) :
    exec .measure (s.overlay g old) = mapNext (State.overlay g old) (exec .measure s) := by
  refine (congrArg finish (query_then_overlay (fun u => ?_) s)).trans finish_overlay
  have hl : (u.overlay g old).curRsp.level = u.curRsp.level := rfl
  rw [hl]
  cases u.curRsp.level with
  | low => exact measureFromLow_overlay u
  | high => exact measureFromRise_overlay u

theorem acceptReset_overlay (s : State) : acceptReset (s.overlay g old) = (acceptReset s).overlay g old := by
  simp [acceptReset, emit, State.overlay]

theorem execStart_overlay (h : PinsAgree .start s.pins (g s.pins)) :
    exec .start (s.overlay g old) = mapNext (State.overlay g old) (exec .start s) := by
  obtain ⟨h1, h2, h3, h4⟩ := h.1 rfl
  have hr : startRegisters (s.overlay g old) = (startRegisters s).overlay g old := by
    simp only [startRegisters, State.overlay, h1, h2, h3]
  have hb : configurationBad (s.overlay g old) = configurationBad s := by
    simp only [configurationBad, State.overlay, h1, h4]
  have ha : (s.overlay g old).params = s.params := rfl
  change execStart _ = mapNext _ (execStart s)
  unfold execStart
  rw [hb, ha, hr, riseFromCursor_overlay, andThen_overlay (fun _ => rfl), finish_overlay]
  split
  · rfl
  · split <;> rfl

/-- Every operation commutes with it, as long as what the operation is named for is on the pins as before. -/
theorem exec_overlay {i : Instr} (h : PinsAgree i s.pins (g s.pins)) :
    exec i (s.overlay g old) = mapNext (State.overlay g old) (exec i s) := by
  cases i with
  | measure => exact execMeasure_overlay s
  | gfHigh =>
    change finish (measureFromLow (emit _ (s.overlay g old))) = _
    rw [emit_overlay, measureFromLow_overlay, finish_overlay]
    rfl
  | gfLow =>
    change finish (skipLowSpike (emit _ (s.overlay g old))) = _
    rw [emit_overlay, skipLowSpike_overlay, finish_overlay]
    rfl
  | rstacc =>
    change finish (leaveReset (acceptReset (s.overlay g old))) = _
    rw [acceptReset_overlay, leaveReset_overlay, finish_overlay]
    rfl
  | chkpt => exact (congrArg finish (readCheckpoint_overlay s)).trans finish_overlay
  | spoint => exact (congrArg finish (readSamplePoint_overlay s)).trans finish_overlay
  | query => exact (congrArg (finishCommand _) (query_overlay s)).trans finishCommand_overlay
  | advEdge => exact (congrArg (finishCommand _) (advEdge_overlay s)).trans finishCommand_overlay
  | peekEdge => exact (congrArg (finishCommand _) (peekEdge_overlay s)).trans finishCommand_overlay
  | advBy n => exact (congrArg (finishCommand _) (advBy_overlay n s)).trans finishCommand_overlay
  | start => exact execStart_overlay h
  | progress =>
    refine (congrArg finish (query_then_overlay (fun u => ?_) s)).trans finish_overlay
    simp [emit, State.overlay, Res.map]
  | gapchk =>
    by_cases hc : s.thr.tGap < s.highW <;> simp [exec, execGapchk, State.overlay, emit, mapNext, hc]
  | rstchk =>
    by_cases hc : classify s.thr s.lowW s.odEff = .notReset
    · rw [exec_rstchk_of_notReset hc, exec_rstchk_of_notReset (s := s.overlay g old) hc]
      rfl
    · rw [exec_rstchk_of_reset hc, exec_rstchk_of_reset (s := s.overlay g old) hc]
      rfl
  | asm =>
    change execAsm _ = mapNext _ (execAsm s)
    unfold execAsm
    have hl : (s.overlay g old).layer = s.layer := rfl
    rw [hl]
    cases layerWidth? s.layer <;> rfl
  | cancelchk =>
    have hc : (s.overlay g old).pins.cancel = s.pins.cancel := h.2.2 rfl
    change execCancelchk _ = mapNext _ (execCancelchk s)
    unfold execCancelchk
    rw [hc]
    split <;> rfl
  | idle =>
    have hc : (s.overlay g old).pins.start = s.pins.start := h.2.1 rfl
    change execIdle _ = mapNext _ (execIdle s)
    unfold execIdle
    rw [hc]
    rfl
  | gfPass | rstre | halt => rfl
  | gapflush | emit | frame | commit | marker | progressRec =>
    simp [exec, execGapflush, execEmit, execFrame, execCommit, execMarker, execProgressRec, acceptRecord, enterDecoding,
      emit, State.overlay, mapNext]

theorem pinsAgree_self (i : Instr) (p : Pins) : PinsAgree i p (id p) :=
  ⟨fun _ => ⟨rfl, rfl, rfl, rfl⟩, fun _ => rfl, fun _ => rfl⟩

/-- Settles O22: driving the pins otherwise is an overlay with no records. -/
theorem pinsAreSampledOnlyWhereNamed : Obligations.PinsAreSampledOnlyWhereNamed := by
  refine ⟨fun i s t p h h1 h2 h3 => ?_, fun w s t p h => ?_⟩
  · have ho := exec_overlay (s := s) (g := fun _ => p) (old := []) (i := i) ⟨h1, h2, h3⟩
    rw [h] at ho
    exact ho
  · have ho := resume_overlay (g := fun _ => p) (old := []) w s
    rw [h] at ho
    exact ho

/-! ## The step -/

/-- One turn of the outside, by the entry of the script. -/
theorem turnCapture_overlay (c : Option (Memory × Index)) (s : State) :
    turnCapture c (s.overlay id old) = mapNext (State.overlay id old) (turnCapture c s) := by
  cases c with
  | none => rfl
  | some c =>
    have hb : (s.overlay id old).busy = s.busy := rfl
    simp only [turnCapture, hb]
    split <;> rfl

theorem turnDeliver_overlay (d : Option (List Nat × Nat)) (s : State) :
    turnDeliver d (s.overlay id old) = mapNext (State.overlay id old) (turnDeliver d s) := by
  cases d with
  | none => rfl
  | some d =>
    have hs : (s.overlay id old).source = s.source := rfl
    have hm : (s.overlay id old).mem = s.mem := rfl
    simp only [turnDeliver, hs, hm]
    split <;> rfl

theorem thenNext_mapNext {o : Out} {f : State → State} {k k' : State → Out} (hk : ∀ u, k (f u) = mapNext f (k' u)) :
    thenNext (mapNext f o) k = mapNext f (thenNext o k') := by
  cases o with
  | next u => exact hk u
  | fault r => rfl
  | refused r => rfl

theorem hostTurn_overlay (s : State) : hostTurn (s.overlay id old) = mapNext (State.overlay id old) (hostTurn s) := by
  cases hs : s.script with
  | nil =>
    have hs' : (s.overlay id old).script = [] := hs
    rw [hostTurn_empty hs, hostTurn_empty hs']
    rfl
  | cons e es =>
    have hs' : (s.overlay id old).script = e :: es := hs
    have hp : turnPins e.pins { s.overlay id old with script := es } =
        (turnPins e.pins { s with script := es }).overlay id old := by
      cases e.pins <;> rfl
    simp only [hostTurn, hs, hs', hp, turnCapture_overlay]
    refine thenNext_mapNext fun u => ?_
    rw [turnDeliver_overlay]
    refine thenNext_mapNext fun v => ?_
    cases e.ends <;> rfl

theorem resetInProgress_overlay (p : WaitPoint) (s : State) :
    resetInProgress p (s.overlay id old) = (resetInProgress p s).overlay id old := by
  unfold resetInProgress
  rw [resume_overlay]
  cases resume p s <;> rfl

theorem step_overlay (s : State) : step (s.overlay id old) = mapNext (State.overlay id old) (step s) := by
  have hw : (s.overlay id old).waiting = s.waiting := rfl
  have hr : (s.overlay id old).pins = s.pins := rfl
  have hf : fetch (s.overlay id old) = fetch s := rfl
  unfold step
  rw [hw, hr, hf]
  cases s.waiting with
  | some p =>
    cases s.pins.rst with
    | true => exact (congrArg hostTurn (resetInProgress_overlay p s)).trans (hostTurn_overlay _)
    | false =>
      change thenNext (resume p (s.overlay id old)) hostTurn = mapNext _ (thenNext (resume p s) hostTurn)
      rw [resume_overlay, thenNext_mapNext hostTurn_overlay]
  | none =>
    cases s.pins.rst with
    | true => exact hostTurn_overlay (hardwareReset s)
    | false =>
      cases fetch s with
      | error e => rfl
      | ok i =>
        change thenNext (exec i (s.overlay id old)) hostTurn = mapNext _ (thenNext (exec i s) hostTurn)
        rw [exec_overlay (pinsAgree_self i s.pins), thenNext_mapNext hostTurn_overlay]

/-- What commutes with records before those in the sink appends, and the same whatever was there. -/
theorem appends_of_overlay {f : State → Out}
    (hf : ∀ u old, f (u.overlay id old) = mapNext (State.overlay id old) (f u)) (h : f s = .next t) :
    ∃ rs, t.sink = s.sink ++ rs ∧ ∀ old : List Record, f { s with sink := old } = .next { t with sink := old ++ rs } := by
  have ho : ∀ old : List Record, f { s with sink := old } = mapNext (State.overlay id old) (f { s with sink := [] }) :=
    fun old => by
      rw [← hf]
      simp [State.overlay]
  obtain ⟨u, hu, ht⟩ := thenNext_eq_next ((ho s.sink).symm.trans h)
  obtain rfl := Host.Outcome.next.inj ht
  refine ⟨u.sink, rfl, fun old => ?_⟩
  rw [ho old, hu]
  rfl

/-- Settles O20. -/
theorem sinkIsAppendOnlyAndNeverRead : Obligations.SinkIsAppendOnlyAndNeverRead :=
  ⟨fun i _ _ h => appends_of_overlay (f := exec i) (fun u _ => exec_overlay (pinsAgree_self i u.pins)) h,
    fun _ _ h => appends_of_overlay (f := step) (fun u _ => step_overlay u) h⟩

end

end Sys2Proof.Machine
end

section
/-! What START alone writes: the configuration latches and thresholds (10_state.md R27, R28); and the mode that follows them
(10_state.md R20). -/

namespace Sys2Proof.Machine

/-- The configuration latches, the thresholds and the parameter record are the same. -/
structure SameConfig (s t : State) : Prop where
  params : t.params = s.params
  thr : t.thr = s.thr
  cfgRate : t.cfgRate = s.cfgRate
  cfgForce : t.cfgForce = s.cfgForce
  cfgChan : t.cfgChan = s.cfgChan

section
variable {s t : State}

theorem SameOffCursor.sameConfig (h : SameOffCursor s t) : SameConfig s t where
  params := show t.offCursor.params = s.offCursor.params from congrArg State.params h
  thr := show t.offCursor.thr = s.offCursor.thr from congrArg State.thr h
  cfgRate := show t.offCursor.cfgRate = s.offCursor.cfgRate from congrArg State.cfgRate h
  cfgForce := show t.offCursor.cfgForce = s.offCursor.cfgForce from congrArg State.cfgForce h
  cfgChan := show t.offCursor.cfgChan = s.offCursor.cfgChan from congrArg State.cfgChan h

theorem exec_sameConfig {i : Instr} (hi : i ≠ .start) (h : exec i s = .next t) : SameConfig s t := by
  cases i with
  | start => exact absurd rfl hi
  | measure => exact (exec_measure_sameOffCursor h).sameConfig
  | gfHigh => exact (finish_sameOffCursor (s := s) h (measureFromLow_sameOffCursor rfl)).sameConfig
  | gfLow => exact (finish_sameOffCursor (s := s) h (skipLowSpike_sameOffCursor rfl)).sameConfig
  | chkpt => exact (finish_sameOffCursor (s := s) h (readCheckpoint_sameOffCursor rfl)).sameConfig
  | spoint => exact (finish_sameOffCursor (s := s) h (readSamplePoint_sameOffCursor rfl)).sameConfig
  | rstacc =>
    obtain ⟨h1, h2, h3, h4, h5⟩ := (finish_sameOffCursor h (leaveReset_sameOffCursor rfl)).sameConfig
    exact ⟨h1, h2, h3, h4, h5⟩
  | progress => exact (exec_progress_sameOffCursor h).sameConfig
  | query => exact (finishCommand_sameOffCursor h (query_sameOffCursor rfl)).sameConfig
  | advEdge => exact (finishCommand_sameOffCursor h (advEdge_sameOffCursor rfl)).sameConfig
  | peekEdge => exact (finishCommand_sameOffCursor h (peekEdge_sameOffCursor rfl)).sameConfig
  | advBy n => exact (finishCommand_sameOffCursor h (advBy_sameOffCursor n rfl)).sameConfig
  | gapchk => rcases exec_gapchk_cases h with rfl | rfl <;> exact ⟨rfl, rfl, rfl, rfl, rfl⟩
  | rstchk => rcases exec_rstchk_cases h with rfl | ⟨_, rfl⟩ <;> exact ⟨rfl, rfl, rfl, rfl, rfl⟩
  | asm => rcases exec_asm_cases h with ⟨_, rfl⟩ | ⟨_, _, rfl⟩ <;> exact ⟨rfl, rfl, rfl, rfl, rfl⟩
  | cancelchk => rcases exec_cancelchk_cases h with ⟨_, rfl⟩ | rfl <;> exact ⟨rfl, rfl, rfl, rfl, rfl⟩
  | idle | gfPass | gapflush | rstre | emit | halt | frame | commit | marker | progressRec =>
    cases h
    exact ⟨rfl, rfl, rfl, rfl, rfl⟩

/-- Settles O23. -/
theorem configurationIsFrozenAfterStart : Obligations.ConfigurationIsFrozenAfterStart := by
  refine ⟨fun i s t h => ⟨(exec_onward h).outside.params, fun hi => ?_⟩, fun p s t h => ?_⟩
  · obtain ⟨_, h2, h3, h4, h5⟩ := exec_sameConfig hi h
    exact ⟨h2, h3, h4, h5⟩
  · obtain ⟨h1, h2, h3, h4, h5⟩ := (resume_sameOffCursor h).sameConfig
    exact ⟨h1, h2, h3, h4, h5⟩

/-- The flag is set only with the latched force bit (10_state.md R20). -/
def ModeFollows (s : State) : Prop := s.overdrive = true → s.cfgForce = true

theorem ModeFollows.odEff (h : ModeFollows s) : s.odEff = s.cfgForce := by
  unfold State.odEff
  cases ho : s.overdrive with
  | false => exact Bool.or_false _
  | true => rw [h ho]; rfl

theorem SameMode.modeFollows (h : SameMode s t) (hs : ModeFollows s) : ModeFollows t := by
  unfold ModeFollows
  rw [h.overdrive, h.cfgForce]
  exact hs

theorem hardwareReset_modeFollows (s : State) : ModeFollows (hardwareReset s) := nofun

theorem exec_modeFollows {i : Instr} (hp : s.params.overdriveInit = .followForce) (hs : ModeFollows s)
    (h : exec i s = .next t) : ModeFollows t := by
  by_cases hi : i = .start
  · subst hi
    rcases exec_start_cases h with ⟨_, rfl⟩ | ⟨_, _, _, rfl⟩
    · exact hs
    · simp [ModeFollows, initialOverdrive, hp]
  · intro ho
    by_cases hne : t.overdrive = s.overdrive
    · exact (exec_cfgForce hi h).trans (hs (hne ▸ ho))
    · exact absurd (ho.symm.trans (exec_overdrive_ne hi h hne).2.1) (by decide)

/-- Settles O25. -/
theorem followForceFixesTheMode : Obligations.FollowForceFixesTheMode := by
  refine ⟨fun s t hp hs h => ?_, nofun⟩
  have ht : ∃ u, ModeFollows u ∧ hostTurn u = .next t := by
    rcases step_cases h with ⟨p, u, _, _, hu, ht⟩ | ⟨p, _, _, ht⟩ | ⟨_, _, ht⟩ | ⟨_, _, i, u, _, hu, ht⟩
    · exact ⟨u, (resume_sameOffCursor hu).sameMode.modeFollows hs, ht⟩
    · refine ⟨_, ?_, ht⟩
      rcases resetInProgress_cases p s with ⟨v, _, hv⟩ | ⟨_, hv⟩ <;> rw [hv] <;> exact hardwareReset_modeFollows _
    · exact ⟨_, hardwareReset_modeFollows s, ht⟩
    · exact ⟨u, exec_modeFollows hp hs hu, ht⟩
  obtain ⟨u, hu, ht⟩ := ht
  obtain ⟨_, _, _, ho, hf⟩ := hostTurn_core ht
  have hm : ModeFollows t := SameMode.modeFollows ⟨ho, hf⟩ hu
  exact ⟨hm, hm.odEff⟩

end

end Sys2Proof.Machine
end

section
/-! One step (45_decode_loop.md R130, 60_exceptions.md, Wait states), hardware reset (70_reset_and_hazards.md, Reset), and the
halted core. -/

namespace Sys2Proof.Machine

section
variable {s : State}

/-! ## The step -/

/-- Where a result leaves the script empty the outside has nothing to do. -/
theorem thenNext_hostTurn_empty {o : Out} (h : ∀ t, o = .next t → t.script = []) : thenNext o hostTurn = o := by
  cases o with
  | next t => exact hostTurn_empty (h t rfl)
  | fault _ => rfl
  | refused _ => rfl

theorem exec_hostTurn_empty (i : Instr) (hs : s.script = []) : thenNext (exec i s) hostTurn = exec i s :=
  thenNext_hostTurn_empty fun _ ht => (exec_onward ht).outside.script.trans hs

theorem resume_hostTurn_empty (p : WaitPoint) (hs : s.script = []) : thenNext (resume p s) hostTurn = resume p s :=
  thenNext_hostTurn_empty fun _ ht => (resume_sameOutside ht).script.trans hs

theorem step_of_reserved {e : DecodeError} (hw : s.waiting = none) (hr : s.pins.rst = false) (hf : fetch s = .error e) :
    step s = .refused (.reservedEncoding e) := by
  simp [step, hw, hr, hf]

/-- Settles O6: with no operation in progress by what is fetched, else by the point of the wait. -/
theorem stepRunsTheDecodedOperation : Obligations.StepRunsTheDecodedOperation := by
  intro s
  constructor
  · intro hw hr
    refine ⟨fun i hi => ?_, fun e he => step_of_reserved hw hr he, fun hp i hi hg => ?_⟩
    · have hstep := step_of_fetch hw hr hi
      exact ⟨hstep, fun hs => hstep.trans (exec_hostTurn_empty i hs)⟩
    · have hf := fetch_of_portsIdle hp
      rw [Phase.instr_of_phase? hi hg] at hf
      exact step_of_fetch hw hr hf
  · intro p hw hr
    have hstep := step_of_waiting hw hr
    exact ⟨hstep, fun hs => hstep.trans (resume_hostTurn_empty p hs)⟩

/-! ## Hardware reset -/

/-- With `rst` high a step resets the state itself, or the state that the operation in progress has gone on to. -/
theorem step_of_rst_high (hr : s.pins.rst = true) :
    ∃ u, step s = hostTurn (hardwareReset u) ∧ SameOutside s u ∧ (s.waiting = none → u = s) ∧
      (∀ p v, s.waiting = some p → resume p s = .next v → u = v) ∧
      (∀ p, s.waiting = some p → (∀ v, resume p s ≠ .next v) → u = s) := by
  cases hw : s.waiting with
  | none => exact ⟨s, step_of_rst hw hr, sameOutside_self s, by simp, by simp, by simp⟩
  | some p =>
    rcases resetInProgress_cases p s with ⟨u, hu, he⟩ | ⟨hn, he⟩
    · refine ⟨u, (step_of_waiting_rst hw hr).trans (by rw [he]), resume_sameOutside hu, by simp, ?_, ?_⟩
      · rintro _ v ⟨⟩ hv
        exact Host.Outcome.next.inj (hu.symm.trans hv)
      · rintro _ ⟨⟩ hn
        exact absurd hu (hn u)
    · refine ⟨s, (step_of_waiting_rst hw hr).trans (by rw [he]), sameOutside_self s, by simp, ?_, by simp⟩
      rintro _ v ⟨⟩ hv
      exact absurd hv (hn v)

/-- Settles O7: every such step is the hardware reset of some state with the same outside, and then the outside's turn. -/
theorem rstPinResetsTheCore : Obligations.RstPinResetsTheCore := by
  intro s hr
  obtain ⟨u, hstep, ho, hnone, hnext, hstuck⟩ := step_of_rst_high hr
  refine ⟨hardwareReset u, hstep, fun hs => hstep.trans (hostTurn_empty (ho.script.trans hs)), rfl, rfl, rfl, rfl, rfl, rfl,
    rfl, rfl, rfl, rfl, rfl, rfl, rfl, rfl, rfl, rfl, rfl, rfl, rfl, ho.mem, ho.ended, ho.params, ho.pins, ho.script,
    fun hw => ?_, fun p v hw hv => ?_, fun p hw hn => ?_⟩
  · rw [hnone hw]
    exact ⟨rfl, rfl⟩
  · rw [hnext p v hw hv]
    exact ⟨rfl, rfl⟩
  · rw [hstuck p hw hn]
    exact ⟨rfl, rfl⟩

theorem reset_runInv : RunInv State.reset where
  memory := by decide
  control := by decide
  cursor _ := cursorInv_of_off rfl rfl
  config := configInv_of_off (by decide)
  ports := ⟨rfl, rfl⟩
  waits := waitInv_of_none rfl

/-- Settles O8. -/
theorem resetMeetsTheInvariants : Obligations.ResetMeetsTheInvariants :=
  ⟨reset_runInv, fun _ hr => absurd hr List.not_mem_nil, rfl, rfl, rfl, rfl, rfl, rfl, rfl, rfl, rfl, rfl, rfl, rfl, rfl,
    rfl, rfl, rfl, rfl, rfl, rfl, rfl, rfl, rfl, rfl⟩

/-! ## HALT -/

/-- HALT executed in phase HALT writes back the phase it finds. -/
theorem exec_halt_of_halt (hp : s.ph = .halt) : exec .halt s = .next s := by
  cases s
  cases hp
  rfl

/-- Settles O17: the step fetches HALT itself. -/
theorem haltIsAbsorbing : Obligations.HaltIsAbsorbing := by
  intro s
  refine ⟨rfl, fun hp hr hw hi hs => ⟨exec_halt_of_halt hp, ?_⟩⟩
  have hf : fetch s = .ok .halt := by
    rw [fetch_of_portsIdle hi, hp]
    rfl
  rw [step_of_fetch hw hr hf, exec_halt_of_halt hp]
  exact hostTurn_empty hs

end

end Sys2Proof.Machine
end

section
/-! The TimingModel (40_timing_model.md): a threshold register holds the quotient exactly, larger times give larger
thresholds, and what an admissible record (00_scope.md R6) makes of them. -/

namespace Sys2Proof.Machine

section
variable {rate : BitVec 32} {us : Nat}

theorem rate_mul_us_lt (h : us < 2 ^ 32) : rate.toNat * us < 2 ^ 64 :=
  calc rate.toNat * us < 2 ^ 32 * 2 ^ 32 := Nat.mul_lt_mul'' rate.isLt h
    _ = 2 ^ 64 := by norm_num

theorem usToSamples_lt (h : us < 2 ^ 32) : usToSamples rate.toNat us < 2 ^ 45 := by
  have := rate_mul_us_lt (rate := rate) h
  exact Nat.div_lt_of_lt_mul (by omega)

theorem usToIndex_toNat (h : us < 2 ^ 32) : (usToIndex rate us).toNat = rate.toNat * us / 1000000 := by
  have hlt := usToSamples_lt (rate := rate) h
  exact Nat.mod_eq_of_lt (Nat.lt_trans hlt (by decide))

/-- Settles O26. -/
theorem usToSamplesFitsItsRegister : Obligations.UsToSamplesFitsItsRegister :=
  ⟨fun _ _ h => ⟨rate_mul_us_lt h, usToSamples_lt h, usToIndex_toNat h⟩, by decide, by decide⟩

theorem usToIndex_mono {a b : Nat} (hab : a ≤ b) (hb : b < 2 ^ 32) : usToIndex rate a ≤ usToIndex rate b := by
  rw [BitVec.le_def, usToIndex_toNat (Nat.lt_of_le_of_lt hab hb), usToIndex_toNat hb]
  exact Nat.div_le_div_right (Nat.mul_le_mul_left _ hab)

/-- A time of at most a second is at most as many samples as the rate says, which 32 bits hold. -/
theorem usToIndex_lt_of_le_second (h : us ≤ 1000000) : (usToIndex rate us).toNat < 2 ^ 32 := by
  rw [usToIndex_toNat (by omega)]
  calc rate.toNat * us / 1000000 ≤ rate.toNat * 1000000 / 1000000 := Nat.div_le_div_right (Nat.mul_le_mul_left _ h)
    _ = rate.toNat := Nat.mul_div_cancel _ (by decide)
    _ < 2 ^ 32 := rate.isLt

/-- An admissible record by its inequalities (00_scope.md R6): each of the times left out is bounded by one that is not. -/
theorem admissible_iff (p : Params) :
    admissible p = true ↔
      p.resetMarginInUs ≤ p.resetPulseUs ∧ p.overdriveMarginInUs ≤ p.overdriveResetPulseUs ∧
        p.sampleCheckpointUs ≤ p.samplePointUs ∧ p.samplePointUs ≤ 1000000 ∧ 1 ≤ p.minSampleRateHz ∧
        p.resetPulseUs < 2 ^ 32 ∧ p.overdriveResetPulseUs < 2 ^ 32 ∧
        p.overdriveMaxResetUs + p.overdriveMarginOutUs < 2 ^ 32 ∧ p.minPulseUs < 2 ^ 32 ∧ p.longGapUs < 2 ^ 32 := by
  simp only [admissible, microsecondsFit, Bool.and_eq_true, decide_eq_true_eq, List.all_cons, List.all_nil, and_true]
  omega

/-! ## The two advances of the BitSampler (30_encoding.md R70) -/

variable {s : State}

theorem checkpointAdvance_toNat (h : s.thr.tChk.toNat < 2 ^ 32) : (checkpointAdvance s).toNat = s.thr.tChk.toNat := by
  rw [checkpointAdvance, BitVec.toNat_setWidth, Nat.mod_eq_of_lt h]

theorem samplePointAdvance_toNat (hle : s.thr.tChk ≤ s.thr.tSp) (h : s.thr.tSp.toNat < 2 ^ 32) :
    (samplePointAdvance s).toNat = s.thr.tSp.toNat - s.thr.tChk.toNat := by
  have hsub : (s.thr.tSp - s.thr.tChk).toNat = s.thr.tSp.toNat - s.thr.tChk.toNat := BitVec.toNat_sub_of_le hle
  rw [samplePointAdvance, BitVec.toNat_setWidth, hsub, Nat.mod_eq_of_lt (by omega)]

/-- Settles O28: the orders are those of the times, and the sample point is at most a second in. -/
theorem admissibleThresholdsAreOrdered : Obligations.AdmissibleThresholdsAreOrdered := by
  intro p rate s ha ht
  obtain ⟨_, _, hcs, hs, _, hr, hod, _, _, _⟩ := (admissible_iff p).mp ha
  have hstd : s.thr.tStdMin ≤ s.thr.tStdNom := ht ▸ usToIndex_mono (Nat.sub_le _ _) hr
  have hovd : s.thr.tOvdMin ≤ s.thr.tOvdNom := ht ▸ usToIndex_mono (Nat.sub_le _ _) hod
  have hle : s.thr.tChk ≤ s.thr.tSp := ht ▸ usToIndex_mono hcs (by omega)
  have hsp : s.thr.tSp.toNat < 2 ^ 32 := ht ▸ usToIndex_lt_of_le_second hs
  have hchk : s.thr.tChk.toNat = rate.toNat * p.sampleCheckpointUs / 1000000 := ht ▸ usToIndex_toNat (by omega)
  have hspn : s.thr.tSp.toNat = rate.toNat * p.samplePointUs / 1000000 := ht ▸ usToIndex_toNat (by omega)
  refine ⟨hstd, hovd, hle, hsp, ?_, ?_⟩
  · rw [checkpointAdvance_toNat (Nat.lt_of_le_of_lt (BitVec.le_def.mp hle) hsp), hchk]
  · rw [samplePointAdvance_toNat hle hsp, hspn, hchk]

end

/-! ## The reset class (42_reset_detector.md R101, R102) -/

section
variable {t : Thresholds} {w : Index} {od : Bool}

theorem classify_of_tOvd (h : w ≤ t.tStdMin) (ho : od = true ∧ t.tOvdMin < w ∧ w < t.tOvdMax) :
    classify t w od = .resetOverdrive := by
  simp [classify, BitVec.not_lt.mpr h, ho]

theorem classify_of_not_tOvd (h : w ≤ t.tStdMin) (ho : ¬ (od = true ∧ t.tOvdMin < w ∧ w < t.tOvdMax)) :
    classify t w od = .notReset := by
  simp only [classify, BitVec.not_lt.mpr h, if_false]
  exact if_neg (by simpa using ho)

/-- Settles O29: the standard test first, then the overdrive window. -/
theorem classifyIsTheDecisionTable : Obligations.ClassifyIsTheDecisionTable := by
  intro t w od
  by_cases hs : t.tStdMin < w
  · have hc := classify_of_tStdMin_lt hs od
    simp [resetWarning, hc, hs, BitVec.not_le.mpr hs]
  · have hle := BitVec.not_lt.mp hs
    by_cases ho : od = true ∧ t.tOvdMin < w ∧ w < t.tOvdMax
    · have hc := classify_of_tOvd hle ho
      obtain ⟨rfl, hlo, hhi⟩ := ho
      simp [resetWarning, hc, hs, hle, hlo, hhi]
    · have hc := classify_of_not_tOvd hle ho
      simp only [resetWarning, hc, hs, hle, ho]
      simp

end

end Sys2Proof.Machine
end

section
/-! The operations of the DecodeLoop (45_decode_loop.md), of the GLITCH dispatch (41_acquire_glitch.md) and of the
ResetDetector (42_reset_detector.md), one equation for each of their paths. -/

namespace Sys2Proof.Machine

section
variable {s : State}

/-! ## IDLE and START -/

/-- Settles O30: the phase IDLE writes is chosen by the pin alone. -/
theorem idleFollowsTheStartPin : Obligations.IdleFollowsTheStartPin := by
  intro s
  have hx : exec .idle s = .next { s with ph := if s.pins.start then .start else .idle } := rfl
  refine ⟨fun h => ?_, fun h => ?_⟩ <;> rw [hx, h] <;> rfl

theorem configurationBad_iff :
    configurationBad s = true ↔ s.pins.sampleRateHz.toNat < s.params.minSampleRateHz ∨ s.pins.channelValid = false := by
  simp [configurationBad]

theorem configurationBad_eq_false (hr : s.params.minSampleRateHz ≤ s.pins.sampleRateHz.toNat)
    (hc : s.pins.channelValid = true) : configurationBad s = false := by
  simp [configurationBad, hr, hc]

theorem exec_start_of_inadmissible (ha : admissible s.params = false) :
    exec .start s = .refused .inadmissibleParameters := by
  change execStart s = _
  simp [execStart, ha]

theorem exec_start_of_bad (ha : admissible s.params = true) (hb : configurationBad s = true) :
    exec .start s = .next (raise .configurationError s) := by
  change execStart s = _
  simp [execStart, ha, hb]

theorem exec_start_of_good (ha : admissible s.params = true) (hb : configurationBad s = false) :
    exec .start s = finish ((riseFromCursor (startRegisters s)).andThen fun t =>
      .ok { t with haltReason := .none, ph := .measure }) := by
  change execStart s = _
  simp [execStart, ha, hb]

theorem exec_start_on_sample (ha : admissible s.params = true) (hb : configurationBad s = false)
    (hh : s.mem.holds s.pos.toNat = true) :
    exec .start s = .next { answer s.pos false (startRegisters s) with
      rise := s.pos, haltReason := .none, ph := .measure } := by
  have hq : riseFromCursor (startRegisters s) = .ok { answer s.pos false (startRegisters s) with rise := s.pos } :=
    riseFromCursor_eq hh
  rw [exec_start_of_good ha hb, hq]
  rfl

/-- Settles O31. -/
theorem startBuildsTheRunState : Obligations.StartBuildsTheRunState := by
  intro s ha hh hr hc
  refine ⟨{ sample := s.pos, level := s.level, eos := false }, ?_⟩
  rw [exec_start_on_sample ha (configurationBad_eq_false hr hc) hh]
  cases hi : s.params.overdriveInit <;> simp [startRegisters, answer, initialOverdrive, hi, State.level]

/-- Settles O32. -/
theorem startRejectsABadConfiguration : Obligations.StartRejectsABadConfiguration :=
  fun _ ha hb => exec_start_of_bad ha (configurationBad_iff.mpr hb)

/-- START refuses no record that is admissible. -/
theorem exec_start_ne_refused (ha : admissible s.params = true) (hh : s.mem.holds s.pos.toNat = true) :
    exec .start s ≠ .refused .inadmissibleParameters := by
  cases hb : configurationBad s with
  | true => simp [exec_start_of_bad ha hb]
  | false => simp [exec_start_on_sample ha hb hh]

/-- Settles O33: the list of the statement is `admissible_iff`'s. -/
theorem startRefusesAnInadmissibleRecord : Obligations.StartRefusesAnInadmissibleRecord := by
  intro s hh
  rw [← admissible_iff]
  refine ⟨fun hx ha => exec_start_ne_refused ha hh hx, fun ha => exec_start_of_inadmissible ?_⟩
  exact Bool.not_eq_true _ ▸ ha

/-! ## GLITCH and GF_PASS -/

/-- Settles O37: the three cases of the selection, in its order. -/
theorem glitchPhaseSelection : Obligations.GlitchPhaseSelection := by
  intro s
  unfold glitchSelect
  cases hd : s.defer with
  | true => simp
  | false =>
    by_cases hh : s.highW < s.thr.tFloor
    · simp [hh, BitVec.not_le.mpr hh]
    · by_cases hl : s.lowW < s.thr.tFloor
      · simp [hh, hl, BitVec.not_lt.mp hh, BitVec.not_le.mpr hl]
      · simp [hh, hl, BitVec.not_lt.mp hh, BitVec.not_lt.mp hl]

/-- Settles O41. -/
theorem gfPassHandsThePairOn : Obligations.GfPassHandsThePairOn := by
  intro s
  have hx : exec .gfPass s = .next { s with defer := false, ph := if s.st = .unknown then .gapchk else .rstchk } := rfl
  exact ⟨fun h => by rw [hx, if_pos h], fun h => by rw [hx, if_neg h]⟩

/-! ## GAPCHK and GAPFLUSH -/

theorem exec_gapchk_of_gap (h : s.thr.tGap < s.highW) :
    exec .gapchk s = .next { emit (.marker s.fall .start) s with st := .newTransactionGap, ph := .gapflush } :=
  if_pos h

theorem exec_gapchk_of_no_gap (h : s.highW ≤ s.thr.tGap) :
    exec .gapchk s = .next { emit (.marker s.fall .downArrow) s with ph := .rstchk } :=
  if_neg (BitVec.not_lt.mpr h)

/-- Settles O42. -/
theorem gapchkTestsTheHighPulse : Obligations.GapchkTestsTheHighPulse :=
  fun _ => ⟨exec_gapchk_of_gap, exec_gapchk_of_no_gap⟩

/-- Settles O43: GAPFLUSH has one path and no condition. -/
theorem gapflushOpensATransaction : Obligations.GapflushOpensATransaction :=
  fun _ => rfl

/-! ## PROGRESS and CANCELCHK -/

theorem exec_progress_on_sample (h : s.mem.holds s.pos.toNat = true) :
    exec .progress s = .next { emit (.progress s.pos) (answer s.pos false s) with ph := .cancelchk } := by
  change execProgress s = _
  simp only [execProgress, query_eq h, andThen_ok, finish_ok, answer_curRsp]

/-- Settles O55. -/
theorem progressReportsTheCursor : Obligations.ProgressReportsTheCursor :=
  fun _ h => ⟨_, exec_progress_on_sample h⟩

/-- Settles O56: the two branches on the pin `cancel`. -/
theorem cancelchkPollsThePin : Obligations.CancelchkPollsThePin := by
  intro s
  have hx : exec .cancelchk s = if s.pins.cancel then .next (raise .cancelled s) else .next { s with ph := .measure } := rfl
  exact ⟨fun h => by rw [hx, if_pos h, raise_cancelled], fun h => by rw [hx, h]; rfl⟩

/-! ## RSTACC, and the three steps of an accepted reset -/

/-- What RSTACC leaves before its cursor command (42_reset_detector.md R104, R105), register by register. -/
theorem acceptReset_eq (s : State) :
    acceptReset s =
      { s with
        overdrive := (if s.thr.tStdMin < s.lowW then false else s.overdrive), st := .resetObserved
        sink := s.sink ++ [.commit, .frame s.fall s.rise .restart 0 s.rstWarn] } := by
  simp [acceptReset, emit, modeUpdate]

/-- Settles O45. -/
theorem rstaccAcceptsTheReset : Obligations.RstaccAcceptsTheReset := by
  intro s e hm he
  rw [exec_rstacc_of_nextEdge hm he, acceptReset_eq]
  exact ⟨_, rfl⟩

/-- Between two boundaries of a run without the outside: the step is the operation of the phase. -/
theorem step_of_phase {i : Instr} (h : PortsIdle s) (hw : s.waiting = none) (hr : s.pins.rst = false)
    (hs : s.script = []) (hi : Phase.instr (glitchSelect s) s.ph = i) : step s = exec i s := by
  rw [step_of_fetch hw hr (hi ▸ fetch_of_portsIdle h)]
  exact exec_hostTurn_empty i hs

/-- In phase RSTCHK no operation is in progress. -/
theorem WaitInv.none_of_rstchk (h : WaitInv s) (hp : s.ph = .rstchk) : s.waiting = none := by
  cases hw : s.waiting with
  | none => rfl
  | some p =>
    have := WaitInv.cases h hw
    simp [hp] at this

/-- Settles O47: RSTCHK finds the reset, RSTACC accepts it and moves to its end, which is `rise`, RSTRE enters decoding. -/
theorem resetPreemptsEverything : Obligations.ResetPreemptsEverything := by
  intro s h hp hr hs hc
  have hw := h.waits.none_of_rstchk hp
  obtain ⟨hpf, _, he, _⟩ := (h.cursorInv hw).1 (by rw [hp]; rfl)
  let s1 : State := { s with rstWarn := resetWarning s.thr s.lowW s.odEff, ph := .rstacc }
  let s2 : State := { moveTo s.rise (acceptReset s1) with ph := .rstre }
  have h1 : step s = .next s1 :=
    (step_of_phase h.ports hw hr hs (by rw [hp]; rfl)).trans (exec_rstchk_of_reset hc)
  have h2 : step s1 = .next s2 :=
    (step_of_phase (s := s1) h.ports hw hr hs rfl).trans (exec_rstacc_of_nextEdge (s := s1) h.memory (hpf ▸ he))
  have h3 : step s2 = .next { enterDecoding s2 with defer := true, ph := .progress } :=
    step_of_phase (s := s2) h.ports hw hr hs rfl
  refine ⟨_, ((run_succ 2 h1).trans (run_succ 1 h2)).trans (run_succ 0 h3), rfl, rfl, rfl, rfl, rfl, rfl, rfl, ?_⟩
  exact congrArg State.sink (acceptReset_eq s1)

end

end Sys2Proof.Machine
end

section
/-! The FrameAssembler (44_frame_assembler.md): one accepted bit, a whole field, and its frame. -/

namespace Sys2Proof.Machine

section
variable {s : State}

theorem exec_asm_of_unknown (h : s.layer = .unknown) : exec .asm s = .next { s with ph := .progress } := by
  change execAsm s = _
  simp [execAsm, h, layerWidth?]

theorem exec_asm_of_width {w : BitVec 6} (h : layerWidth? s.layer = some w) :
    exec .asm s = .next { acceptBit s with ph := if s.bits + 1 = w then .emit else .progress } := by
  change execAsm s = _
  simp [execAsm, h]

/-- Settles O52. -/
theorem asmAcceptsOneBit : Obligations.AsmAcceptsOneBit :=
  fun _ => ⟨exec_asm_of_unknown, fun _ hw => exec_asm_of_width hw⟩

/-- Settles O54: the layer decides the frame's kind and the next layer. -/
theorem emitSendsTheField : Obligations.EmitSendsTheField := by
  intro s
  have hx : exec .emit s = .next
      { s with sink := s.sink ++ [.frame s.fieldStart s.rise (layerKind s.layer) s.acc false], bits := 0, acc := 0
               layer := layerNext s.layer, ph := .progress } := rfl
  refine ⟨fun h => ?_, fun h => ?_, fun h => ?_, fun h => ⟨layerKind .unknown, ?_⟩⟩ <;> rw [hx, h] <;>
    simp [layerKind, layerNext]

/-! ## A whole field -/

/-- What one accepted slot leaves (44_frame_assembler.md R120), in numbers. -/
theorem exec_asm_slot {w : BitVec 6} (hw : layerWidth? s.layer = some w) (ha : s.acc.toNat < 2 ^ s.bits.toNat)
    (hlt : s.bits.toNat < w.toNat) (b : Bool) (f : Index) :
    ∃ t, exec .asm { s with bit := b, fall := f } = .next t ∧
      t.acc.toNat = s.acc.toNat + 2 ^ s.bits.toNat * b.toNat ∧ t.bits.toNat = s.bits.toNat + 1 ∧
      t.fieldStart = (if s.bits = 0 then f else s.fieldStart) ∧ t.layer = s.layer ∧ t.sink = s.sink ∧
      (t.ph = .emit ↔ t.bits.toNat = w.toNat) := by
  have h48 := layerWidth?_le hw
  have hbits : (s.bits + 1).toNat = s.bits.toNat + 1 := by bv_omega
  refine ⟨_, exec_asm_of_width (s := { s with bit := b, fall := f }) hw,
    acceptBit_acc_toNat (s := { s with bit := b, fall := f }) ha (by bv_omega), hbits, rfl, rfl, rfl, ?_⟩
  change (if s.bits + 1 = w then Phase.emit else .progress) = .emit ↔ (s.bits + 1).toNat = w.toNat
  rw [BitVec.toNat_inj]
  split
  · next he => exact iff_of_true rfl he
  · next he => exact iff_of_false (by decide) he

/-- What a list of accepted slots makes of a field `w` bits wide, in numbers. -/
structure Fills (w : BitVec 6) (slots : List (Bool × Index)) (s t : State) : Prop where
  acc : t.acc.toNat = s.acc.toNat + 2 ^ s.bits.toNat * bitsValue (slots.map Prod.fst)
  bits : t.bits.toNat = s.bits.toNat + slots.length
  fieldStart : s.bits ≠ 0 → t.fieldStart = s.fieldStart
  layer : t.layer = s.layer
  sink : t.sink = s.sink
  ph : (s.ph = .emit ↔ s.bits.toNat = w.toNat) → (t.ph = .emit ↔ t.bits.toNat = w.toNat)

theorem bitsValue_cons (b : Bool) (bs : List Bool) : bitsValue (b :: bs) = b.toNat + 2 * bitsValue bs := by
  cases b <;> rfl

/-- A bit at its place keeps the accumulator below the next power of two. -/
theorem add_bit_lt {a n : Nat} (ha : a < 2 ^ n) (b : Bool) : a + 2 ^ n * b.toNat < 2 ^ (n + 1) := by
  have := Nat.mul_le_mul_left (2 ^ n) (Bool.toNat_le b)
  rw [Nat.pow_succ]
  omega

/-- Slots that fit into the field fill it, by induction on the slots. -/
theorem assemble_fills {w : BitVec 6} (slots : List (Bool × Index)) (hw : layerWidth? s.layer = some w)
    (ha : s.acc.toNat < 2 ^ s.bits.toNat) (hfit : s.bits.toNat + slots.length ≤ w.toNat) :
    ∃ t, assemble slots s = .next t ∧ Fills w slots s t := by
  induction slots generalizing s with
  | nil => exact ⟨s, rfl, by simp [bitsValue], rfl, fun _ => rfl, rfl, rfl, id⟩
  | cons slot slots ih =>
    obtain ⟨b, f⟩ := slot
    rw [List.length_cons] at hfit
    obtain ⟨u, hu, hacc, hbits, hstart, hlayer, hsink, hph⟩ := exec_asm_slot hw ha (by omega) b f
    obtain ⟨t, ht, hf⟩ := ih (s := u) (hlayer ▸ hw) (by rw [hacc, hbits]; exact add_bit_lt ha b) (by omega)
    refine ⟨t, ?_, ?_, ?_, fun h0 => ?_, hf.layer.trans hlayer, hf.sink.trans hsink, fun _ => hf.ph hph⟩
    · rw [assemble, hu]
      exact ht
    · rw [hf.acc, hacc, hbits, List.map_cons, bitsValue_cons, Nat.pow_succ]
      ring
    · rw [hf.bits, hbits, List.length_cons]
      omega
    · rw [hf.fieldStart (fun hz => by simp [hz] at hbits), hstart, if_neg h0]

/-- Settles O53: the first slot begins the field, the others fill it. -/
theorem fieldIsFilledLeastSignificantBitFirst : Obligations.FieldIsFilledLeastSignificantBitFirst := by
  intro s w b f slots hw hb ha hfit
  have hb0 : s.bits.toNat = 0 := by simp [hb]
  have ha0 : s.acc.toNat = 0 := by simp [ha]
  obtain ⟨u, hu, hacc, hbits, hstart, hlayer, hsink, hph⟩ :=
    exec_asm_slot hw (by rw [ha0]; exact Nat.two_pow_pos _) (by omega) b f
  rw [ha0, hb0] at hacc
  rw [hb0] at hbits
  obtain ⟨t, ht, hf⟩ := assemble_fills (s := u) slots (hlayer ▸ hw)
    (by rw [hacc, hbits]; exact add_bit_lt (by decide) b) (by omega)
  have hn : t.bits.toNat = slots.length + 1 := by rw [hf.bits, hbits]; omega
  refine ⟨t, ?_, ?_, hn, ?_, hf.layer.trans hlayer, hf.sink.trans hsink, hn ▸ hf.ph hph⟩
  · rw [assemble, hu]
    exact ht
  · rw [hf.acc, hacc, hbits, bitsValue_cons]
    omega
  · rw [hf.fieldStart (fun hz => by simp [hz] at hbits), hstart, if_pos hb]

end

end Sys2Proof.Machine
end

section
/-! The BitSampler (43_bit_sampler.md) where the data reaches, where it ends, and by the width of the low pulse. -/

namespace Sys2Proof.Machine

section
variable {s : State}

theorem checkpointPos_eq (h : s.thr.tChk.toNat < 2 ^ 32) : checkpointPos s = s.pos + s.thr.tChk := by
  have hn : (checkpointAdvance s).setWidth 64 = s.thr.tChk := by
    apply BitVec.eq_of_toNat_eq
    rw [BitVec.toNat_setWidth, checkpointAdvance_toNat h, Nat.mod_eq_of_lt s.thr.tChk.isLt]
  rw [checkpointPos, hn]

theorem samplePointPos_eq (hle : s.thr.tChk ≤ s.thr.tSp) (h : s.thr.tSp.toNat < 2 ^ 32) :
    samplePointPos s = s.pos + (s.thr.tSp - s.thr.tChk) := by
  have hn : (samplePointAdvance s).setWidth 64 = s.thr.tSp - s.thr.tChk := by
    apply BitVec.eq_of_toNat_eq
    rw [BitVec.toNat_setWidth, samplePointAdvance_toNat hle h, BitVec.toNat_sub_of_le hle, Nat.mod_eq_of_lt (by omega)]
  rw [samplePointPos, hn]

theorem checkpointPos_toNat (hm : MemoryInv s) (h : s.thr.tChk.toNat < 2 ^ 32)
    (hn : s.pos.toNat + s.thr.tChk.toNat < s.mem.stop) :
    (checkpointPos s).toNat = s.pos.toNat + s.thr.tChk.toNat := by
  rw [checkpointPos, advBy_pos hm (by rwa [checkpointAdvance_toNat h]), checkpointAdvance_toNat h]

theorem samplePointPos_toNat (hm : MemoryInv s) (hle : s.thr.tChk ≤ s.thr.tSp) (h : s.thr.tSp.toNat < 2 ^ 32)
    (hn : s.pos.toNat + (s.thr.tSp.toNat - s.thr.tChk.toNat) < s.mem.stop) :
    (samplePointPos s).toNat = s.pos.toNat + (s.thr.tSp.toNat - s.thr.tChk.toNat) := by
  rw [samplePointPos, advBy_pos hm (by rwa [samplePointAdvance_toNat hle h]), samplePointAdvance_toNat hle h]

theorem exec_chkpt_of_high (hm : MemoryInv s) (hn : s.pos.toNat + s.thr.tChk.toNat < s.mem.stop)
    (h : s.thr.tChk.toNat < 2 ^ 32) (hl : s.mem.level (s.pos.toNat + s.thr.tChk.toNat) = .high) :
    exec .chkpt s = .next { emit (.marker (s.pos + s.thr.tChk) .invalid) (moveTo (s.pos + s.thr.tChk) s) with
      ph := .progress } := by
  change finish (readCheckpoint s) = _
  rw [readCheckpoint_high hm (by rwa [checkpointAdvance_toNat h]) (by rwa [checkpointPos_toNat hm h hn]),
    checkpointPos_eq h, finish_ok]

theorem exec_chkpt_of_low (hm : MemoryInv s) (hn : s.pos.toNat + s.thr.tChk.toNat < s.mem.stop)
    (h : s.thr.tChk.toNat < 2 ^ 32) (hl : s.mem.level (s.pos.toNat + s.thr.tChk.toNat) = .low) :
    exec .chkpt s = .next { moveTo (s.pos + s.thr.tChk) s with ph := .spoint } := by
  change finish (readCheckpoint s) = _
  rw [readCheckpoint_low hm (by rwa [checkpointAdvance_toNat h]) (by rwa [checkpointPos_toNat hm h hn]),
    checkpointPos_eq h, finish_ok]

/-- Settles O48. -/
theorem chkptLooksAtTheCheckpoint : Obligations.ChkptLooksAtTheCheckpoint :=
  fun _ hm hn h => ⟨fun hl => ⟨_, exec_chkpt_of_high hm hn h hl⟩, fun hl => ⟨_, exec_chkpt_of_low hm hn h hl⟩⟩

/-- The marker SPOINT sends for a level, and the bit it is (43_bit_sampler.md R112). -/
def sampledMarker : Level → MarkerKind
  | .high => .one
  | .low => .zero

theorem exec_spoint_of_level {l : Level} (hm : MemoryInv s) (hle : s.thr.tChk ≤ s.thr.tSp) (h : s.thr.tSp.toNat < 2 ^ 32)
    (hn : s.pos.toNat + (s.thr.tSp.toNat - s.thr.tChk.toNat) < s.mem.stop)
    (hl : s.mem.level (s.pos.toNat + (s.thr.tSp.toNat - s.thr.tChk.toNat)) = l) :
    exec .spoint s = .next
      { emit (.marker (s.pos + (s.thr.tSp - s.thr.tChk)) (sampledMarker l)) (moveTo (s.pos + (s.thr.tSp - s.thr.tChk)) s) with
        bit := decide (l = .high), ph := .asm } := by
  have hadv : s.pos.toNat + (samplePointAdvance s).toNat < s.mem.stop := by rwa [samplePointAdvance_toNat hle h]
  have hlvl : s.mem.level (samplePointPos s).toNat = l := by rwa [samplePointPos_toNat hm hle h hn]
  change finish (readSamplePoint s) = _
  rw [← samplePointPos_eq hle h]
  cases l with
  | high =>
    rw [readSamplePoint_high hm hadv hlvl]
    rfl
  | low =>
    rw [readSamplePoint_low hm hadv hlvl]
    rfl

/-- Settles O49. -/
theorem spointReadsTheBit : Obligations.SpointReadsTheBit :=
  fun _ hm hle h hn =>
    ⟨fun hl => ⟨_, exec_spoint_of_level hm hle h hn hl⟩, fun hl => ⟨_, exec_spoint_of_level hm hle h hn hl⟩⟩

/-- Settles O50. -/
theorem samplerStopsWhereTheStreamEnds : Obligations.SamplerStopsWhereTheStreamEnds := by
  intro s hm hf
  exact ⟨fun hn => ⟨_, congrArg finish (readCheckpoint_finite hm hf hn)⟩,
    fun hn => ⟨_, congrArg finish (readSamplePoint_finite hm hf hn)⟩⟩

/-! ## The verdict by width -/

theorem Memory.NextEdge.level_before {m : Memory} {a b e : Nat} (h : m.NextEdge a e) (hab : a ≤ b) (hbe : b < e) :
    m.level b = m.level a := by
  rcases Nat.eq_or_lt_of_le hab with rfl | hlt
  · rfl
  · exact h.2.2.2 b hbe hlt

/-- The level a width after the falling edge: that of the low pulse while the pulse lasts, then High. -/
theorem level_of_width {w : Index} (hl : s.mem.level s.fall.toNat = .low) (he : s.mem.NextEdge s.fall.toNat s.rise.toNat)
    (hw : s.lowW = s.rise - s.fall) (hhigh : s.rise.toNat ≤ s.fall.toNat + w.toNat →
      s.mem.level (s.fall.toNat + w.toNat) = .high) :
    s.mem.level (s.fall.toNat + w.toNat) = if s.lowW ≤ w then .high else .low := by
  have hlw : s.lowW.toNat = s.rise.toNat - s.fall.toNat := by
    rw [hw]
    exact BitVec.toNat_sub_of_le (BitVec.le_def.mpr (Nat.le_of_lt he.1))
  have hlt := he.1
  split
  · next h =>
    have := BitVec.le_def.mp h
    exact hhigh (by omega)
  · next h =>
    have := BitVec.lt_def.mp (BitVec.not_le.mp h)
    rw [he.level_before (Nat.le_add_right _ _) (by omega), hl]

/-- A slot whose checkpoint is Low: the two operations together look at the sample `T_SP` after the cursor. -/
theorem exec_chkpt_spoint {l : Level} (hm : MemoryInv s) (hle : s.thr.tChk ≤ s.thr.tSp) (h : s.thr.tSp.toNat < 2 ^ 32)
    (hn : s.pos.toNat + s.thr.tSp.toNat < s.mem.stop) (hc : s.mem.level (s.pos.toNat + s.thr.tChk.toNat) = .low)
    (hl : s.mem.level (s.pos.toNat + s.thr.tSp.toNat) = l) :
    thenNext (exec .chkpt s) (exec .spoint) = .next
      { emit (.marker (s.pos + s.thr.tSp) (sampledMarker l)) (moveTo (s.pos + s.thr.tSp) s) with
        bit := decide (l = .high), ph := .asm } := by
  have hchk := BitVec.le_def.mp hle
  have hstop := hm.bounds
  have hnat : (s.pos + s.thr.tChk).toNat = s.pos.toNat + s.thr.tChk.toNat := BitVec.toNat_add_of_lt (by omega)
  have hsum : (s.pos + s.thr.tChk).toNat + (s.thr.tSp.toNat - s.thr.tChk.toNat) = s.pos.toNat + s.thr.tSp.toNat := by
    omega
  have hpos : s.pos + s.thr.tChk + (s.thr.tSp - s.thr.tChk) = s.pos + s.thr.tSp := by bv_omega
  let u : State := { moveTo (s.pos + s.thr.tChk) s with ph := .spoint }
  have hh : s.mem.holds (s.pos + s.thr.tChk).toNat = true := (Memory.holds_iff _ _).mpr (by omega)
  have hmu : MemoryInv u := moveTo_memoryInv hm hh
  have hu := exec_spoint_of_level (s := u) hmu hle h (hsum.trans_lt hn) ((congrArg s.mem.level hsum).trans hl)
  rw [exec_chkpt_of_low hm (by omega) (by omega) hc, ← hpos]
  exact hu

/-- Settles O51: CHKPT stops at a pulse that is over by then, else SPOINT reads whether it is over at the sample point. -/
theorem slotVerdictFollowsTheWidth : Obligations.SlotVerdictFollowsTheWidth := by
  intro s hm _ hpf hlow he hw hle hsp hn hhigh
  have hlf : s.mem.level s.fall.toNat = .low := hpf ▸ hlow
  have hchk := BitVec.le_def.mp hle
  have hc := level_of_width (w := s.thr.tChk) hlf he hw (hhigh _ (by omega))
  have hs := level_of_width (w := s.thr.tSp) hlf he hw (hhigh _ (by omega))
  rw [← hpf] at hc hs hn ⊢
  constructor
  · intro hwc
    rw [if_pos hwc] at hc
    exact ⟨_, exec_chkpt_of_high hm (by omega) (by omega) hc, rfl, rfl, rfl, rfl, rfl, rfl⟩
  · intro hwc
    rw [if_neg (BitVec.not_le.mpr hwc)] at hc
    by_cases hws : s.lowW ≤ s.thr.tSp
    · rw [if_pos hws] at hs
      exact ⟨_, exec_chkpt_spoint hm hle hsp hn hc hs, rfl, (decide_eq_true hws).symm, rfl, by rw [if_pos hws]; rfl⟩
    · rw [if_neg hws] at hs
      exact ⟨_, exec_chkpt_spoint hm hle hsp hn hc hs, rfl, (decide_eq_false hws).symm, rfl, by rw [if_neg hws]; rfl⟩

end

end Sys2Proof.Machine
end

section
/-! The cursor port and the sink port (20_memory.md): each command and each record on its own, and the fault of a command
with no sample under the cursor. -/

namespace Sys2Proof.Machine

section
variable {s : State}

/-- Settles O57. -/
theorem cursorCommandsAnswer : Obligations.CursorCommandsAnswer := by
  intro s hm
  refine ⟨congrArg (finishCommand s) (query_eq hm.2), fun e he => ⟨?_, ?_⟩, fun n hn => ?_⟩
  · have hl : s.level.flip = s.mem.level e.toNat := (Memory.level_nextEdge he).symm
    rw [hl]
    exact congrArg (finishCommand s) (advEdge_eq hm he)
  · exact congrArg (finishCommand s) (peekEdge_eq hm he)
  · rw [← advBy_pos hm hn]
    exact congrArg (finishCommand s) (advBy_eq hm hn)

theorem peekEdge_finite (h : MemoryInv s) (hf : s.source = .finite) (hn : s.mem.NoEdge s.pos.toNat) :
    peekEdge s = .eos (answer s.pos true s) := by
  rw [peekEdge_none h hn, endOfData_finite hf]

/-- Settles O58. -/
theorem cursorCommandsAnswerEndOfStream : Obligations.CursorCommandsAnswerEndOfStream := by
  intro s hm hf
  refine ⟨fun hn => ⟨?_, ?_⟩, fun n hn => ?_⟩
  · exact congrArg (finishCommand s) (advEdge_finite hm hf hn)
  · exact congrArg (finishCommand s) (peekEdge_finite hm hf hn)
  · exact congrArg (finishCommand s) (advBy_finite hm hf hn)

/-- Every point of a wait goes on with a cursor command. -/
theorem rest_of_not_holds (p : WaitPoint) (h : s.mem.holds s.pos.toNat = false) :
    rest p s = .fault .sampleOutsideData := by
  cases p <;>
    simp only [rest, measureFromLow, measureFromRise, measureLow, skipLowSpike, mergeHighPulse, readCheckpoint,
      readSamplePoint, leaveReset, advEdge, peekEdge, advBy, onSample_of_not h, Res.waitingAt, Res.andThen]

theorem exec_start_of_not_holds (ha : admissible s.params = true) (hb : configurationBad s = false)
    (h : s.mem.holds s.pos.toNat = false) : exec .start s = .fault .sampleOutsideData := by
  have hq : query (startRegisters s) = .fault .sampleOutsideData := onSample_of_not h _
  rw [exec_start_of_good ha hb, riseFromCursor, hq]
  rfl

/-- Settles O59: the operations of the core that begin with a command of their own are, but for what they do before it, what
is left of one that waits there. -/
theorem noSampleUnderTheCursorFaults : Obligations.NoSampleUnderTheCursorFaults := by
  intro s h
  have hq : query s = .fault .sampleOutsideData := onSample_of_not h _
  have hrest (p : WaitPoint) (u : State) (hu : u.mem.holds u.pos.toNat = false) :
      finish (rest p u) = .fault .sampleOutsideData := congrArg finish (rest_of_not_holds p hu)
  refine ⟨congrArg (finishCommand s) hq, congrArg (finishCommand s) (onSample_of_not h _),
    congrArg (finishCommand s) (onSample_of_not h _), fun n => congrArg (finishCommand s) (onSample_of_not h _),
    fun ha hr hc => exec_start_of_not_holds ha (configurationBad_eq_false hr hc) h, ?_,
    hrest .risingEdge (raise .glitch s) h, hrest .spikeEnd (raise .glitch s) h, hrest .resetEnd (acceptReset s) h,
    hrest .checkpoint s h, hrest .samplePoint s h, ?_, fun p => hrest p { s with waiting := none } h⟩
  · change execMeasure s = _
    rw [execMeasure, hq]
    rfl
  · change execProgress s = _
    rw [execProgress, hq]
    rfl

/-- Settles O60: each record's operation has one path and no condition. -/
theorem sinkTakesTheRecord : Obligations.SinkTakesTheRecord :=
  fun _ => ⟨fun _ _ _ _ _ => rfl, rfl, fun _ _ => rfl, fun _ => rfl⟩

end

end Sys2Proof.Machine
end

section
/-! MEASURE, GF_HIGH and GF_LOW edge by edge (41_acquire_glitch.md R90, R92, R93): where the edges are there, where the data
ends on a stream that can end, and where it ends on a live one. -/

namespace Sys2Proof.Machine

section
variable {s : State} {up down e : Index}

/-! ## The states the operations pass through -/

/-- The cursor moved to the rising edge `up`, and `rise` written. -/
def atRise (up : Index) (s : State) : State :=
  { s with pos := up, rise := up, curRsp := { sample := up, level := s.mem.level up.toNat, eos := false } }

/-- The cursor moved to the falling edge `down`, and the high pulse written. -/
def atFall (down highW : Index) (s : State) : State :=
  { s with pos := down, fall := down, highW := highW
           curRsp := { sample := down, level := s.mem.level down.toNat, eos := false } }

theorem atRise_memoryInv (h : MemoryInv s) (hu : s.mem.NextEdge s.pos.toNat up.toNat) : MemoryInv (atRise up s) :=
  ⟨h.1, Memory.holds_of_nextEdge h.2 hu⟩

theorem atFall_memoryInv {w : Index} (h : MemoryInv s) (hd : s.mem.NextEdge s.pos.toNat down.toNat) :
    MemoryInv (atFall down w s) :=
  ⟨h.1, Memory.holds_of_nextEdge h.2 hd⟩

theorem measureFromLow_atRise (h : MemoryInv s) (hu : s.mem.NextEdge s.pos.toNat up.toNat) :
    measureFromLow s = measureFromRise (atRise up s) := measureFromLow_of_nextEdge h hu

theorem measureFromRise_atFall (h : MemoryInv s) (hd : s.mem.NextEdge s.pos.toNat down.toNat) :
    measureFromRise s = measureLow (atFall down (down - s.rise) s) := measureFromRise_of_nextEdge h hd

theorem measureFromLow_atFall (h : MemoryInv s) (hu : s.mem.NextEdge s.pos.toNat up.toNat)
    (hd : s.mem.NextEdge up.toNat down.toNat) :
    measureFromLow s = measureLow (atFall down (down - up) (atRise up s)) :=
  (measureFromLow_atRise h hu).trans (measureFromRise_atFall (atRise_memoryInv h hu) hd)

theorem skipLowSpike_atFall (h : MemoryInv s) (hu : s.mem.NextEdge s.pos.toNat up.toNat)
    (hd : s.mem.NextEdge up.toNat down.toNat) :
    skipLowSpike s = measureLow (atFall down (s.highW + (down - s.fall)) (moveTo up s)) :=
  (skipLowSpike_of_nextEdge h hu).trans
    (mergeHighPulse_of_nextEdge (moveTo_memoryInv h (Memory.holds_of_nextEdge h.2 hu)) hd)

theorem exec_measure_of_low (h : MemoryInv s) (hl : s.level = .low) :
    exec .measure s = finish (measureFromLow (answer s.pos false s)) := by
  change execMeasure s = _
  rw [execMeasure_eq h, hl]

theorem exec_measure_of_high (h : MemoryInv s) (hl : s.level = .high) :
    exec .measure s = finish (measureFromRise (answer s.pos false s)) := by
  change execMeasure s = _
  rw [execMeasure_eq h, hl]

/-! ## Where the edges are there -/

theorem measureFromRise_complete (h : MemoryInv s) (hd : s.mem.NextEdge s.pos.toNat down.toNat)
    (he : s.mem.NextEdge down.toNat e.toNat) :
    ∃ r, finish (measureFromRise s) = .next
      { s with pos := down, fall := down, highW := down - s.rise, rise := e, lowW := e - down, ph := .glitch
               curRsp := r } :=
  ⟨_, congrArg finish (measureFromRise_eq h hd he)⟩

theorem measureFromLow_complete (h : MemoryInv s) (hu : s.mem.NextEdge s.pos.toNat up.toNat)
    (hd : s.mem.NextEdge up.toNat down.toNat) (he : s.mem.NextEdge down.toNat e.toNat) :
    ∃ r, finish (measureFromLow s) = .next
      { s with pos := down, fall := down, highW := down - up, rise := e, lowW := e - down, ph := .glitch
               curRsp := r } := by
  rw [measureFromLow_atRise h hu]
  exact measureFromRise_complete (atRise_memoryInv h hu) hd he

/-- Settles O34. -/
theorem measureTakesAPulsePair : Obligations.MeasureTakesAPulsePair := by
  intro s up down e h
  refine ⟨fun hl hd he => ?_, fun hl hu hd he => ?_⟩
  · rw [exec_measure_of_high h hl]
    exact measureFromRise_complete (s := answer s.pos false s) h hd he
  · rw [exec_measure_of_low h hl]
    exact measureFromLow_complete (s := answer s.pos false s) h hu hd he

/-- Settles O38: after its marker GF_HIGH is MEASURE from a low period. -/
theorem gfHighDiscardsTheSpike : Obligations.GfHighDiscardsTheSpike :=
  fun s _ _ _ h hu hd he => measureFromLow_complete (s := raise .glitch s) h hu hd he

/-- Settles O39. -/
theorem gfLowMergesTheHighPulse : Obligations.GfLowMergesTheHighPulse := by
  intro s up down e h hu hd he
  let u : State := atFall down (s.highW + (down - s.fall)) (moveTo up (raise .glitch s))
  have hm : MemoryInv u := ⟨h.1, Memory.holds_of_nextEdge (Memory.holds_of_nextEdge h.2 hu) hd⟩
  have hx : exec .gfLow s = finish (measureLow u) := congrArg finish (skipLowSpike_atFall (s := raise .glitch s) h hu hd)
  rw [hx, measureLow_eq hm he]
  exact ⟨_, rfl⟩

/-! ## Where the data ends on a stream that can end -/

/-- Settles O35: the failing command is the first, the second or the third. -/
theorem measureStopsWhereTheStreamEnds : Obligations.MeasureStopsWhereTheStreamEnds := by
  intro s up down h hf
  have ha : MemoryInv (answer s.pos false s) := h
  refine ⟨fun hn => ?_, fun hl hd hn => ?_, fun hl hu hn => ?_, fun hl hu hd hn => ?_⟩
  · cases hl : s.level with
    | low =>
      rw [exec_measure_of_low h hl, measureFromLow_finite ha hf hn]
      exact ⟨_, rfl⟩
    | high =>
      rw [exec_measure_of_high h hl, measureFromRise_finite ha hf hn]
      exact ⟨_, rfl⟩
  · rw [exec_measure_of_high h hl, measureFromRise_atFall ha hd, measureLow_finite (atFall_memoryInv ha hd) hf hn]
    exact ⟨_, rfl⟩
  · rw [exec_measure_of_low h hl, measureFromLow_atRise ha hu, measureFromRise_finite (atRise_memoryInv ha hu) hf hn]
    exact ⟨_, rfl⟩
  · rw [exec_measure_of_low h hl, measureFromLow_atFall ha hu hd,
      measureLow_finite (atFall_memoryInv (atRise_memoryInv ha hu) hd) hf hn]
    exact ⟨_, rfl⟩

theorem exec_gfHigh_eq (s : State) : exec .gfHigh s = finish (measureFromLow (raise .glitch s)) := rfl

theorem exec_gfLow_eq (s : State) : exec .gfLow s = finish (skipLowSpike (raise .glitch s)) := rfl

/-- Settles O40. -/
theorem glitchFilterStopsWhereTheStreamEnds : Obligations.GlitchFilterStopsWhereTheStreamEnds := by
  intro s up down h hf
  have hg : MemoryInv (raise .glitch s) := h
  simp only [exec_gfHigh_eq, exec_gfLow_eq]
  refine ⟨fun hn => ?_, fun hu hn => ?_, fun hu hd hn => ?_⟩
  · rw [measureFromLow_finite hg hf hn, skipLowSpike_finite hg hf hn]
    exact ⟨⟨_, rfl⟩, ⟨_, rfl⟩⟩
  · have hm : MemoryInv (moveTo up (raise .glitch s)) := moveTo_memoryInv hg (Memory.holds_of_nextEdge h.2 hu)
    rw [measureFromLow_atRise hg hu, measureFromRise_finite (atRise_memoryInv hg hu) hf hn,
      skipLowSpike_of_nextEdge hg hu, mergeHighPulse_finite hm hf hn]
    exact ⟨⟨_, rfl⟩, ⟨_, rfl⟩⟩
  · have hm : MemoryInv (moveTo up (raise .glitch s)) := moveTo_memoryInv hg (Memory.holds_of_nextEdge h.2 hu)
    rw [measureFromLow_atFall hg hu hd, measureLow_finite (atFall_memoryInv (atRise_memoryInv hg hu) hd) hf hn,
      skipLowSpike_atFall hg hu hd, measureLow_finite (atFall_memoryInv hm hd) hf hn]
    exact ⟨⟨_, rfl⟩, ⟨_, rfl⟩⟩

/-! ## Where the data ends on a live stream -/

/-- Each operation at its first command. -/
theorem exec_waits_first (h : MemoryInv s) (hs : s.source = .live) (hn : s.mem.NoEdge s.pos.toNat) :
    (s.level = .low → ∃ r, exec .measure s = .next { s with waiting := some .risingEdge, curRsp := r }) ∧
    (s.level = .high → ∃ r, exec .measure s = .next { s with waiting := some .fallingEdge, curRsp := r }) ∧
    exec .gfHigh s = .next { raise .glitch s with waiting := some .risingEdge } ∧
    exec .gfLow s = .next { raise .glitch s with waiting := some .spikeEnd } ∧
    exec .rstacc s = .next { acceptReset s with waiting := some .resetEnd } := by
  have ha : MemoryInv (answer s.pos false s) := h
  have hr : advEdge (acceptReset s) = .waits (acceptReset s) := advEdge_live (s := acceptReset s) h hs hn
  refine ⟨fun hl => ?_, fun hl => ?_, congrArg finish (measureFromLow_live (s := raise .glitch s) h hs hn),
    congrArg finish (skipLowSpike_live (s := raise .glitch s) h hs hn), ?_⟩
  · rw [exec_measure_of_low h hl, measureFromLow_live ha hs hn]
    exact ⟨_, rfl⟩
  · rw [exec_measure_of_high h hl, measureFromRise_live ha hs hn]
    exact ⟨_, rfl⟩
  · change finish (leaveReset (acceptReset s)) = _
    rw [leaveReset, hr]
    rfl

/-- The operations of phases MEASURE and GLITCH at their second command. -/
theorem exec_waits_second (h : MemoryInv s) (hs : s.source = .live) (he : s.mem.NextEdge s.pos.toNat e.toNat)
    (hn : s.mem.NoEdge e.toNat) :
    (s.level = .low → ∃ r, exec .measure s = .next
      { s with pos := e, rise := e, waiting := some .fallingEdge, curRsp := r }) ∧
    (s.level = .high → ∃ r, exec .measure s = .next
      { s with pos := e, fall := e, highW := e - s.rise, waiting := some .lowPulseEnd, curRsp := r }) ∧
    (∃ r, exec .gfHigh s = .next
      { raise .glitch s with pos := e, rise := e, waiting := some .fallingEdge, curRsp := r }) ∧
    (∃ r, exec .gfLow s = .next { raise .glitch s with pos := e, waiting := some .mergedPulseEnd, curRsp := r }) := by
  have ha : MemoryInv (answer s.pos false s) := h
  have hg : MemoryInv (raise .glitch s) := h
  have hm : MemoryInv (moveTo e (raise .glitch s)) := moveTo_memoryInv hg (Memory.holds_of_nextEdge h.2 he)
  refine ⟨fun hl => ?_, fun hl => ?_, ?_, ?_⟩
  · rw [exec_measure_of_low h hl, measureFromLow_atRise ha he, measureFromRise_live (atRise_memoryInv ha he) hs hn]
    exact ⟨_, rfl⟩
  · rw [exec_measure_of_high h hl, measureFromRise_atFall ha he, measureLow_live (atFall_memoryInv ha he) hs hn]
    exact ⟨_, rfl⟩
  · rw [exec_gfHigh_eq, measureFromLow_atRise hg he, measureFromRise_live (atRise_memoryInv hg he) hs hn]
    exact ⟨_, rfl⟩
  · rw [exec_gfLow_eq, skipLowSpike_of_nextEdge hg he, mergeHighPulse_live hm hs hn]
    exact ⟨_, rfl⟩

/-- The operations of phases MEASURE and GLITCH at their third command. -/
theorem exec_waits_third (h : MemoryInv s) (hs : s.source = .live) (hu : s.mem.NextEdge s.pos.toNat up.toNat)
    (hd : s.mem.NextEdge up.toNat down.toNat) (hn : s.mem.NoEdge down.toNat) :
    (s.level = .low → ∃ r, exec .measure s = .next
      { s with pos := down, rise := up, fall := down, highW := down - up, waiting := some .lowPulseEnd
               curRsp := r }) ∧
    (∃ r, exec .gfHigh s = .next
      { raise .glitch s with pos := down, rise := up, fall := down, highW := down - up
                             waiting := some .lowPulseEnd, curRsp := r }) ∧
    (∃ r, exec .gfLow s = .next
      { raise .glitch s with pos := down, fall := down, highW := s.highW + (down - s.fall)
                             waiting := some .lowPulseEnd, curRsp := r }) := by
  have ha : MemoryInv (answer s.pos false s) := h
  have hg : MemoryInv (raise .glitch s) := h
  have hm : MemoryInv (moveTo up (raise .glitch s)) := moveTo_memoryInv hg (Memory.holds_of_nextEdge h.2 hu)
  refine ⟨fun hl => ?_, ?_, ?_⟩
  · rw [exec_measure_of_low h hl, measureFromLow_atFall ha hu hd,
      measureLow_live (atFall_memoryInv (atRise_memoryInv ha hu) hd) hs hn]
    exact ⟨_, rfl⟩
  · rw [exec_gfHigh_eq, measureFromLow_atFall hg hu hd,
      measureLow_live (atFall_memoryInv (atRise_memoryInv hg hu) hd) hs hn]
    exact ⟨_, rfl⟩
  · rw [exec_gfLow_eq, skipLowSpike_atFall hg hu hd, measureLow_live (atFall_memoryInv hm hd) hs hn]
    exact ⟨_, rfl⟩

end

end Sys2Proof.Machine
end

section
/-! The wait on a live stream makes no difference in the end (20_memory.md R47, 60_exceptions.md R167(b)): what is left of
an operation, once samples have come or the stream has been ended, does what the whole operation does where that was so from
the beginning. A command that was answered is answered alike with more samples, and the one that waits is put again. -/

namespace Sys2Proof.Machine

/-- The state with another waveform, the stream ended or not. -/
def delivered (m : Memory) (e : Bool) (s : State) : State := { s with mem := m, ended := e }

/-- `m` is the waveform with further samples, and no operation is in progress. -/
structure Delivery (m : Memory) (s : State) : Prop where
  memory : MemoryInv s
  notWaiting : s.waiting = none
  adds : ∃ edges stop, s.mem.extends edges stop = true ∧ m = s.mem.extend edges stop

/-- Where the whole operation `i` comes to `r` and with the samples delivered to `r'`: if it waits, at a point of its own,
then what is left of it there comes to `r'` once they have been. -/
def Resumes (i : Instr) (m : Memory) (e : Bool) (r r' : Res) : Prop :=
  ∀ t, r = .waits t →
    ∃ p, t.waiting = some p ∧ i ∈ p.operations ∧ rest p (delivered m e { t with waiting := none }) = r'

/-- A cursor command that is answered is answered alike with the samples delivered; one that waits changes nothing. -/
structure Persists (c : State → Res) (m : Memory) (e : Bool) (s : State) : Prop where
  ok : ∀ v, c s = .ok v → Moved s v ∧ c (delivered m e s) = .ok (delivered m e v)
  waits : ∀ v, c s = .waits v → v = s

section
variable {i : Instr} {m : Memory} {e : Bool} {s t : State}

/-! ## The commands -/

theorem Delivery.moved {u : State} (h : Delivery m s) (hu : Moved s u) : Delivery m u := by
  refine ⟨(hu.memoryInv h.memory).1, hu.waiting.trans h.notWaiting, ?_⟩
  obtain ⟨_, _, _, _, _, _, rfl, _⟩ := hu
  exact h.adds

theorem Delivery.memoryInv (h : Delivery m s) : MemoryInv (delivered m e s) := by
  obtain ⟨_, _, hx, rfl⟩ := h.adds
  exact ⟨Memory.extend_wf h.memory.1 hx, Memory.extend_holds hx h.memory.2⟩

theorem Delivery.level (h : Delivery m s) {a : Nat} (ha : a < s.mem.stop) : m.level a = s.mem.level a := by
  obtain ⟨_, _, hx, rfl⟩ := h.adds
  exact Memory.extend_level hx ha

theorem Delivery.nextEdge (h : Delivery m s) {a b : Nat} (hn : s.mem.NextEdge a b) : m.NextEdge a b := by
  obtain ⟨_, _, hx, rfl⟩ := h.adds
  exact Memory.extend_nextEdge hx hn

theorem Delivery.stop_le (h : Delivery m s) : s.mem.stop ≤ m.stop := by
  obtain ⟨_, _, hx, rfl⟩ := h.adds
  simp only [Memory.extends, Bool.and_eq_true, decide_eq_true_eq] at hx
  exact hx.1.1

theorem answer_delivered (h : Delivery m s) (x : Index) (b : Bool) :
    answer x b (delivered m e s) = delivered m e (answer x b s) := by
  have hl : (delivered m e s).level = s.level := h.level h.memory.bounds.2.1
  simp only [answer, hl]
  rfl

theorem moveTo_delivered (h : Delivery m s) {p : Index} (hp : p.toNat < s.mem.stop) :
    moveTo p (delivered m e s) = delivered m e (moveTo p s) := by
  have hl : (delivered m e { s with pos := p }).level = ({ s with pos := p } : State).level := h.level hp
  change answer p false (delivered m e { s with pos := p }) = _
  simp only [answer, hl]
  rfl

theorem endOfData_ne_ok {v : State} : endOfData s ≠ .ok v := by
  unfold endOfData
  split <;> simp

theorem eq_of_endOfData_waits {v : State} (h : endOfData s = .waits v) : v = s := by
  unfold endOfData at h
  split at h <;> cases h
  rfl

theorem advEdge_persists (h : Delivery m s) : Persists advEdge m e s := by
  rcases advEdge_cases h.memory with ⟨d, hd, hq⟩ | ⟨_, hq⟩
  · refine ⟨fun v hv => ?_, fun v hv => by simp [hq] at hv⟩
    obtain rfl : moveTo d s = v := Res.ok.inj (hq.symm.trans hv)
    refine ⟨moveTo_moved fun hm => ⟨Memory.holds_of_nextEdge hm.2 hd, BitVec.le_def.mpr (Nat.le_of_lt hd.1)⟩, ?_⟩
    rw [advEdge_eq h.memoryInv (h.nextEdge hd), moveTo_delivered h hd.2.1]
  · exact ⟨fun v hv => absurd (hq.symm.trans hv) endOfData_ne_ok, fun v hv => eq_of_endOfData_waits (hq.symm.trans hv)⟩

theorem peekEdge_persists (h : Delivery m s) : Persists peekEdge m e s := by
  rcases peekEdge_cases h.memory with ⟨d, hd, hq⟩ | ⟨_, hq⟩
  · refine ⟨fun v hv => ?_, fun v hv => by simp [hq] at hv⟩
    obtain rfl : answer d false s = v := Res.ok.inj (hq.symm.trans hv)
    refine ⟨answer_moved _ _ _, ?_⟩
    rw [peekEdge_eq h.memoryInv (h.nextEdge hd), answer_delivered h]
  · exact ⟨fun v hv => absurd (hq.symm.trans hv) endOfData_ne_ok, fun v hv => eq_of_endOfData_waits (hq.symm.trans hv)⟩

theorem advBy_persists (h : Delivery m s) (n : BitVec 32) : Persists (advBy n) m e s := by
  rcases advBy_cases h.memory n with ⟨hn, hq⟩ | ⟨_, _, _, hq⟩ | ⟨_, hq⟩
  · refine ⟨fun v hv => ?_, fun v hv => by simp [hq] at hv⟩
    obtain rfl : moveTo (s.pos + n.setWidth 64) s = v := Res.ok.inj (hq.symm.trans hv)
    have hpos := advBy_pos h.memory hn
    refine ⟨moveTo_moved fun hm => ⟨?_, BitVec.le_def.mpr (by omega)⟩, ?_⟩
    · have := hm.bounds
      rw [Memory.holds_iff, hpos]
      omega
    · have hn' : (delivered m e s).pos.toNat + n.toNat < m.stop := Nat.lt_of_lt_of_le hn h.stop_le
      rw [advBy_eq h.memoryInv hn']
      exact congrArg Res.ok (moveTo_delivered h (hpos ▸ hn))
  · exact ⟨fun v hv => by simp [hq] at hv, fun v hv => by simp [hq] at hv⟩
  · exact ⟨fun v hv => absurd (hq.symm.trans hv) endOfData_ne_ok, fun v hv => eq_of_endOfData_waits (hq.symm.trans hv)⟩

/-! ## The parts of the operations -/

theorem resumes_of_not_waits {r r' : Res} (h : ∀ t, r ≠ .waits t) : Resumes i m e r r' :=
  fun t ht => absurd ht (h t)

/-- A command that may wait at `p`, and what follows where it has been answered. -/
theorem Resumes.command {c k : State → Res} {p : WaitPoint} (h : Delivery m s) (hc : Persists c m e s)
    (hi : i ∈ p.operations) (hrest : ∀ u, rest p u = ((c u).waitingAt p).andThen k)
    (hk : ∀ v, Moved s v → Resumes i m e (k v) (k (delivered m e v))) :
    Resumes i m e (((c s).waitingAt p).andThen k) (((c (delivered m e s)).waitingAt p).andThen k) := by
  intro t ht
  cases hcs : c s with
  | ok v =>
    obtain ⟨hm, hv⟩ := hc.ok v hcs
    rw [hv]
    rw [hcs] at ht
    exact hk v hm t ht
  | waits v =>
    obtain rfl := hc.waits v hcs
    rw [hcs] at ht
    cases ht
    refine ⟨p, rfl, hi, ?_⟩
    rw [← hrest]
    exact congrArg (fun u => rest p (delivered m e u)) (waiting_none h.notWaiting)
  | eos v | fault v | refused v =>
    rw [hcs] at ht
    cases ht

/-- QUERY never waits, and what follows it. -/
theorem Resumes.query {k : State → Res} (h : Delivery m s)
    (hk : ∀ v, Moved s v → Resumes i m e (k v) (k (delivered m e v))) :
    Resumes i m e ((query s).andThen k) ((query (delivered m e s)).andThen k) := by
  rw [query_eq h.memory.2, query_eq h.memoryInv.2, answer_delivered h]
  exact hk _ (answer_moved _ _ _)

theorem measureLow_resumes (h : Delivery m s) (hi : i ∈ WaitPoint.lowPulseEnd.operations) :
    Resumes i m e (measureLow s) (measureLow (delivered m e s)) :=
  .command h (peekEdge_persists h) hi (fun _ => rfl) fun _ _ => resumes_of_not_waits (by simp)

theorem measureFromRise_resumes (h : Delivery m s) (hi : i ∈ WaitPoint.fallingEdge.operations) :
    Resumes i m e (measureFromRise s) (measureFromRise (delivered m e s)) := by
  have hlow : i ∈ WaitPoint.lowPulseEnd.operations :=
    show i ∈ [.measure, .gfHigh] ++ [.gfLow] from List.mem_append_left _ hi
  refine .command h (advEdge_persists h) hi (fun _ => rfl) fun v hv => ?_
  refine .query (h.moved hv) fun w hw => ?_
  exact measureLow_resumes
    (h.moved ((hv.trans hw).write w.rise w.curRsp.sample (w.curRsp.sample - w.rise) w.lowW)) hlow

theorem measureFromLow_resumes (h : Delivery m s) (hi : i ∈ WaitPoint.risingEdge.operations) :
    Resumes i m e (measureFromLow s) (measureFromLow (delivered m e s)) := by
  refine .command h (advEdge_persists h) hi (fun _ => rfl) fun v hv => ?_
  have hq := h.moved hv
  rw [riseFromCursor_eq hq.memory.2, riseFromCursor_eq hq.memoryInv.2, answer_delivered hq]
  exact measureFromRise_resumes (hq.moved ((answer_moved v.pos false v).write v.pos v.fall v.highW v.lowW)) hi

theorem mergeHighPulse_resumes (h : Delivery m s) (hi : i ∈ WaitPoint.mergedPulseEnd.operations) :
    Resumes i m e (mergeHighPulse s) (mergeHighPulse (delivered m e s)) := by
  have hlow : i ∈ WaitPoint.lowPulseEnd.operations :=
    show i ∈ [.measure, .gfHigh] ++ [.gfLow] from List.mem_append_right _ hi
  refine .command h (advEdge_persists h) hi (fun _ => rfl) fun v hv => ?_
  refine .query (h.moved hv) fun w hw => ?_
  exact measureLow_resumes
    (h.moved ((hv.trans hw).write w.rise w.curRsp.sample (w.highW + (w.curRsp.sample - w.fall)) w.lowW)) hlow

theorem skipLowSpike_resumes (h : Delivery m s) (hi : i ∈ WaitPoint.spikeEnd.operations) :
    Resumes i m e (skipLowSpike s) (skipLowSpike (delivered m e s)) :=
  .command h (advEdge_persists h) hi (fun _ => rfl) fun _ hv => mergeHighPulse_resumes (h.moved hv) hi

theorem readCheckpoint_resumes (h : Delivery m s) (hi : i ∈ WaitPoint.checkpoint.operations) :
    Resumes i m e (readCheckpoint s) (readCheckpoint (delivered m e s)) := by
  have hc : Persists (fun u => advBy (checkpointAdvance u) u) m e s :=
    ⟨(advBy_persists h (checkpointAdvance s)).ok, (advBy_persists (e := e) h (checkpointAdvance s)).waits⟩
  exact .command (c := fun u => advBy (checkpointAdvance u) u) h hc hi (fun _ => rfl) fun _ _ =>
    resumes_of_not_waits fun _ => by split <;> simp

theorem readSamplePoint_resumes (h : Delivery m s) (hi : i ∈ WaitPoint.samplePoint.operations) :
    Resumes i m e (readSamplePoint s) (readSamplePoint (delivered m e s)) := by
  have hc : Persists (fun u => advBy (samplePointAdvance u) u) m e s :=
    ⟨(advBy_persists h (samplePointAdvance s)).ok, (advBy_persists (e := e) h (samplePointAdvance s)).waits⟩
  exact .command (c := fun u => advBy (samplePointAdvance u) u) h hc hi (fun _ => rfl) fun _ _ =>
    resumes_of_not_waits fun _ => by split <;> simp

theorem leaveReset_resumes (h : Delivery m s) (hi : i ∈ WaitPoint.resetEnd.operations) :
    Resumes i m e (leaveReset s) (leaveReset (delivered m e s)) :=
  .command h (advEdge_persists h) hi (fun _ => rfl) fun _ _ => resumes_of_not_waits (by simp)

/-! ## The operations -/

/-- An operation that waits now had to wait: it neither completed nor was exhausted. -/
theorem Goes.waits_of_waiting {r : Res} {done : State → Prop} {refuses : Refusal → Prop} {p : WaitPoint}
    (h : Goes s done refuses r) (hd : done t → t.waiting = s.waiting) (hw : s.waiting = none)
    (hf : finish r = .next t) (hp : t.waiting = some p) : r = .waits t := by
  rcases finish_next hf with rfl | ⟨u, rfl, rfl⟩ | rfl
  · have hn := (hd h).trans hw
    simp [hn] at hp
  · have hn := h.2.waiting.trans hw
    simp [hn] at hp
  · rfl

/-- The claim for one operation, whose result is `r` and with the samples delivered `r'`. -/
theorem Resumes.resume {r r' : Res} {p : WaitPoint} (h : Resumes i m e r r') (hr : r = .waits t)
    (hp : t.waiting = some p) : i ∈ p.operations ∧ resume p (delivered m e t) = finish r' := by
  obtain ⟨q, hq, hi, hx⟩ := h t hr
  obtain rfl : q = p := Option.some.inj (hq.symm.trans hp)
  exact ⟨hi, congrArg finish hx⟩

/-- The operations that may wait (log 10). -/
def mayWait : Instr → Bool
  | .measure | .gfHigh | .gfLow | .chkpt | .spoint | .rstacc => true
  | _ => false

theorem exec_waiting_of_not_mayWait (hi : mayWait i = false) (h : exec i s = .next t) : t.waiting = s.waiting := by
  have hcommand : isCommand i = true → t.waiting = s.waiting := fun hc => by
    rcases exec_command_cases hc h with rfl | ⟨u, hu, rfl⟩
    · rfl
    · exact hu.waiting
  cases i with
  | query | advEdge | peekEdge | advBy _ => exact hcommand rfl
  | measure | gfHigh | gfLow | chkpt | spoint | rstacc => cases hi
  | start => rcases exec_start_cases h with ⟨_, rfl⟩ | ⟨_, _, _, rfl⟩ <;> rfl
  | progress =>
    obtain ⟨_, rfl⟩ := exec_progress_cases h
    rfl
  | gapchk => rcases exec_gapchk_cases h with rfl | rfl <;> rfl
  | rstchk => rcases exec_rstchk_cases h with rfl | ⟨_, rfl⟩ <;> rfl
  | asm => rcases exec_asm_cases h with ⟨_, rfl⟩ | ⟨_, _, rfl⟩ <;> rfl
  | cancelchk => rcases exec_cancelchk_cases h with ⟨_, rfl⟩ | rfl <;> rfl
  | idle | gfPass | gapflush | rstre | emit | halt | frame | commit | marker | progressRec =>
    cases h
    rfl

theorem exec_measure_resumes {p : WaitPoint} (h : Delivery m s) (ht : exec .measure s = .next t)
    (hp : t.waiting = some p) :
    .measure ∈ p.operations ∧ resume p (delivered m e t) = exec .measure (delivered m e s) := by
  have hd := h.moved (answer_moved s.pos false s)
  have hlev : (delivered m e s).level = s.level := h.level h.memory.bounds.2.1
  have hans : answer (delivered m e s).pos false (delivered m e s) = delivered m e (answer s.pos false s) :=
    answer_delivered h _ _
  cases hl : s.level with
  | low =>
    rw [exec_measure_of_low h.memory hl] at ht
    rw [exec_measure_of_low h.memoryInv (hlev.trans hl), hans]
    have hg := measureFromLow_goes (refuses := fun _ => True) (moved_self (answer s.pos false s))
    have hr := hg.waits_of_waiting (fun hd => hd.phase.1) hd.notWaiting ht hp
    exact (measureFromLow_resumes hd (by simp [WaitPoint.operations])).resume hr hp
  | high =>
    rw [exec_measure_of_high h.memory hl] at ht
    rw [exec_measure_of_high h.memoryInv (hlev.trans hl), hans]
    have hg := measureFromRise_goes (refuses := fun _ => True) (moved_self (answer s.pos false s))
    have hr := hg.waits_of_waiting (fun hd => hd.phase.1) hd.notWaiting ht hp
    exact (measureFromRise_resumes hd (by simp [WaitPoint.operations])).resume hr hp

/-- Every operation, by its first part. -/
theorem exec_resumes {p : WaitPoint} (h : Delivery m s) (ht : exec i s = .next t) (hp : t.waiting = some p) :
    i ∈ p.operations ∧ resume p (delivered m e t) = exec i (delivered m e s) := by
  cases hi : mayWait i with
  | false =>
    have hn := (exec_waiting_of_not_mayWait hi ht).trans h.notWaiting
    simp [hn] at hp
  | true =>
    have hg : Delivery m (raise .glitch s) := ⟨h.memory, h.notWaiting, h.adds⟩
    have ha : Delivery m (acceptReset s) := ⟨h.memory, h.notWaiting, h.adds⟩
    cases i with
    | measure => exact exec_measure_resumes h ht hp
    | gfHigh =>
      have hr := (measureFromLow_goes (refuses := fun _ => True) (moved_self (raise .glitch s))).waits_of_waiting
        (fun hd => hd.phase.1) hg.notWaiting ht hp
      exact (measureFromLow_resumes hg (by simp [WaitPoint.operations])).resume hr hp
    | gfLow =>
      have hr := (skipLowSpike_goes (refuses := fun _ => True) (moved_self (raise .glitch s))).waits_of_waiting
        (fun hd => hd.phase.1) hg.notWaiting ht hp
      exact (skipLowSpike_resumes hg (by simp [WaitPoint.operations])).resume hr hp
    | chkpt =>
      have hr := (readCheckpoint_goes s).waits_of_waiting (fun hd => hd.phase.1) h.notWaiting ht hp
      exact (readCheckpoint_resumes h (by simp [WaitPoint.operations])).resume hr hp
    | spoint =>
      have hr := (readSamplePoint_goes s).waits_of_waiting (fun hd => hd.phase.1) h.notWaiting ht hp
      exact (readSamplePoint_resumes h (by simp [WaitPoint.operations])).resume hr hp
    | rstacc =>
      have hr := (leaveReset_goes (refuses := fun _ => True) (acceptReset s)).waits_of_waiting
        (fun hd => hd.phase.1) ha.notWaiting ht hp
      exact (leaveReset_resumes ha (by simp [WaitPoint.operations])).resume hr hp
    | _ => cases hi

theorem peekEdge_live (h : MemoryInv s) (hl : s.source = .live) (hn : s.mem.NoEdge s.pos.toNat) :
    peekEdge s = .waits s := by
  rw [peekEdge_none h hn, endOfData_live hl]

/-- Settles O36: the waits by the number of edges found before, then the wait that makes no difference. -/
theorem liveStreamMakesTheCoreWait : Obligations.LiveStreamMakesTheCoreWait := by
  intro s hm hs
  refine ⟨fun hn => ?_, fun e he hn => exec_waits_second hm hs he hn,
    fun up down hu hd hn => exec_waits_third hm hs hu hd hn, fun n hn hb => ⟨?_, ?_, ?_⟩, ?_⟩
  · obtain ⟨hlow, hhigh, hgh, hgl, hacc⟩ := exec_waits_first hm hs hn
    rw [acceptReset_eq] at hacc
    exact ⟨hlow, hhigh, hgh, hgl, hacc, congrArg (finishCommand s) (advEdge_live hm hs hn),
      congrArg (finishCommand s) (peekEdge_live hm hs hn)⟩
  · exact congrArg (finishCommand s) (advBy_live hm hs hn hb)
  · rintro rfl
    exact congrArg finish (readCheckpoint_live hm hs hn hb)
  · rintro rfl
    exact congrArg finish (readSamplePoint_live hm hs hn hb)
  · intro i t p edges stop e hw ht hp hx
    exact exec_resumes (m := s.mem.extend edges stop) ⟨hm, hw, edges, stop, hx, rfl⟩ ht hp

end

end Sys2Proof.Machine
end
